-- ==== Sys2Proof/Word.lean ====
section
/-! DEFINITION. The words of the block: bytes, 16-bit and 32-bit words (00_scope R7). -/

namespace Sys2Proof

/-- A byte of the bus or of a register. -/
abbrev Byte := BitVec 8

/-- A command word, a wire command or a measurement word. -/
abbrev Word16 := BitVec 16

/-- The width of `PAYLOAD`, `RESULT` and `SNB`. -/
abbrev Word32 := BitVec 32

end Sys2Proof
end

