-- ==== Sys2Proof/Config.lean ====
section
/-! DEFINITION. The parameters of the block (00_scope R6, 10_state R28), the spec's defaults of them,
and the values the spec leaves open. -/

namespace Sys2Proof

/-- One row of the resolution table (10_state R17): two bit depths and four conversion times in
milliseconds, each time fitting the 16 bits of `SEQ.CT` (42_resolution R126). -/
structure ResRow where
  tbits : Byte
  rhbits : Byte
  tMax : BitVec 16
  tTyp : BitVec 16
  rhMax : BitVec 16
  rhTyp : BitVec 16
deriving DecidableEq, Repr

/-- The four rows of `RES_TABLE`, by resolution code (10_state R17). -/
structure ResTable where
  row0 : ResRow
  row1 : ResRow
  row2 : ResRow
  row3 : ResRow
deriving DecidableEq, Repr

/-- The open parameters of 00_scope R6 and 92_eei_decisions: a model carries the four as parameters.
They stand in State, where no step changes them (log 6). -/
structure Params where
  /-- `TEMP_COEF`, read as a signed number of millipercent per degree. -/
  tempCoef : BitVec 16
  /-- `RES_TABLE`. -/
  resTable : ResTable
  /-- `UREG_RESET_VALUE`. -/
  uregResetValue : Byte
  /-- `RESET_SETTLE_MS`. -/
  resetSettleMs : Nat
deriving DecidableEq, Repr

/-- `TEMP_COEF` has no default in the spec (00_scope R6, 92_eei_decisions D13): a constant without a value. -/
opaque Config.tempCoef : BitVec 16

/-- What a host read of a register other than `STATUS` returns while `BUSY = 1`: any value (93 U1).
The argument is the count of such reads. -/
opaque Config.busyRead : Nat → Word32

/-- The spec's default `RES_TABLE` (42_resolution R126; 93 G1). PRESUMED by the spec itself (log 6). -/
def Config.defaultResTable : ResTable where
  row0 := { tbits := 14, rhbits := 12, tMax := 50, tTyp := 44, rhMax := 16, rhTyp := 14 }
  row1 := { tbits := 12, rhbits := 8, tMax := 13, tTyp := 11, rhMax := 3, rhTyp := 2 }
  row2 := { tbits := 13, rhbits := 10, tMax := 25, tTyp := 22, rhMax := 5, rhTyp := 4 }
  row3 := { tbits := 11, rhbits := 11, tMax := 7, tTyp := 6, rhMax := 8, rhTyp := 7 }

/-- The parameters of the machine at power-on: the defaults of 00_scope R6, `TEMP_COEF` left open. -/
def Config.params : Params where
  tempCoef := Config.tempCoef
  resTable := Config.defaultResTable
  uregResetValue := 0x02
  resetSettleMs := 15

end Sys2Proof
end

