-- ==== Sys2Proof/Syntax.lean ====
section
/-! DEFINITION. The instructions: the 21 host operations (30_encoding R86) and the 9 wire commands
(30_encoding R71), one constructor per row of spec/opcode_table.json; and what the host does at the
register file (20_memory R55, R56). -/

namespace Sys2Proof

/-- A row of spec/opcode_table.json. One-bit operands are `Bool`, byte operands are `Byte`
(30_encoding R87), so every operand value is one the encoding admits. -/
inductive Instr where
  /-- BEGIN `hm` (45_lifecycle R185) -/
  | begin (hm : Bool)
  /-- RESET (45_lifecycle R186) -/
  | reset
  /-- RDSN (45_lifecycle R189) -/
  | rdsn
  /-- RELOAD (41_register_cache R110) -/
  | reload
  /-- WRREG `v` (41_register_cache R112) -/
  | wrreg (v : Byte)
  /-- SETRES `r1,r0` (41_register_cache R114) -/
  | setres (r1 r0 : Bool)
  /-- SETHEAT `en` (41_register_cache R116) -/
  | setheat (en : Bool)
  /-- GETRESCODE (41_register_cache R118) -/
  | getrescode
  /-- GETRES_T (42_resolution R127) -/
  | getresT
  /-- GETRES_RH (42_resolution R128) -/
  | getresRh
  /-- GETCT_T (42_resolution R131) -/
  | getctT
  /-- GETCT_RH (42_resolution R132) -/
  | getctRh
  /-- SETHOLD `hm` (42_resolution R133) -/
  | sethold (hm : Bool)
  /-- SETTYP `t` (42_resolution R134) -/
  | settyp (t : Bool)
  /-- MEAS_T (43_measurement R155) -/
  | measT
  /-- MEAS_RH (43_measurement R156) -/
  | measRh
  /-- MEAS_RHC (43_measurement R157) -/
  | measRhc
  /-- CRC8 (40_crc8 R103) -/
  | crc8
  /-- CHKCRC `c` (40_crc8 R104) -/
  | chkcrc (c : Byte)
  /-- CVT_T (44_converter R174) -/
  | cvtT
  /-- CVT_RH (44_converter R175) -/
  | cvtRh
  /-- W_MEAS_T_HOLD (30_encoding R71) -/
  | wMeasTHold
  /-- W_MEAS_RH_HOLD (30_encoding R71) -/
  | wMeasRhHold
  /-- W_MEAS_T_NOHOLD (30_encoding R71) -/
  | wMeasTNohold
  /-- W_MEAS_RH_NOHOLD (30_encoding R71) -/
  | wMeasRhNohold
  /-- W_SOFT_RESET (30_encoding R71) -/
  | wSoftReset
  /-- W_WRITE_UREG (30_encoding R71); its payload byte is the sequencer's -/
  | wWriteUreg
  /-- W_READ_UREG (30_encoding R71) -/
  | wReadUreg
  /-- W_READ_SNB (30_encoding R71) -/
  | wReadSnb
  /-- W_READ_SNAC (30_encoding R71) -/
  | wReadSnac
deriving DecidableEq, Repr

/-- The nine wire commands as the block names them (30_encoding R71). -/
inductive Wire where
  | measTHold
  | measRhHold
  | measTNohold
  | measRhNohold
  | softReset
  | writeUreg
  | readUreg
  | readSnb
  | readSnac
deriving DecidableEq, Repr

/-- The table row a wire command is. -/
def Wire.instr : Wire → Instr
  | .measTHold => .wMeasTHold
  | .measRhHold => .wMeasRhHold
  | .measTNohold => .wMeasTNohold
  | .measRhNohold => .wMeasRhNohold
  | .softReset => .wSoftReset
  | .writeUreg => .wWriteUreg
  | .readUreg => .wReadUreg
  | .readSnb => .wReadSnb
  | .readSnac => .wReadSnac

/-- What the host does at the register file (20_memory R55, R56). -/
inductive HostAct where
  /-- Write `value` to register `index`, whole (10_state R11). -/
  | write (index : Nat) (value : Word32)
  /-- Read register `index` (10_state R11). -/
  | read (index : Nat)
  /-- Read `STATUS` until `BUSY = 0` (20_memory R56 step 3). -/
  | await
deriving DecidableEq, Repr

end Sys2Proof
end

