-- ==== Sys2Proof/WellFormed.lean ====
section
/-! DEFINITION. What is well formed: a command word (30_encoding R86, R89), the resolution table
(42_resolution R126) and a host write (10_state R11). The operands of `Instr` are typed so that every
instruction is one the encoding admits. -/

namespace Sys2Proof

/-- The opcode map of 30_encoding R86 as (opcode, the bits of `arg` that may be 1). -/
def opcodeMap : List (Byte × Byte) :=
  [(0x01, 0x01), (0x02, 0x00), (0x03, 0x00),
   (0x10, 0x00), (0x11, 0xFF), (0x12, 0x03), (0x13, 0x01), (0x14, 0x00),
   (0x18, 0x00), (0x19, 0x00), (0x1A, 0x00), (0x1B, 0x00), (0x1C, 0x01), (0x1D, 0x01),
   (0x20, 0x00), (0x21, 0x00), (0x22, 0x00),
   (0x30, 0x00), (0x31, 0xFF), (0x32, 0x00), (0x33, 0x00)]

/-- A command word whose opcode is in the map and whose other `arg` bits are 0 (30_encoding R89). -/
def wordLegal (w : Word16) : Bool :=
  opcodeMap.any fun row =>
    w.extractLsb' 8 8 == row.1 && (w.extractLsb' 0 8 &&& ~~~row.2) == 0

/-- `l` holds the four values of `want`, in any order. -/
def holdsEach (l want : List Byte) : Bool :=
  want.all fun v => l.contains v

/-- The constraint on the bit depths: `TBITS` a permutation of 11, 12, 13, 14 and `RHBITS` of
8, 10, 11, 12 (42_resolution R126; 92_eei_decisions D14). -/
def ResTable.wellFormed (t : ResTable) : Bool :=
  holdsEach [t.row0.tbits, t.row1.tbits, t.row2.tbits, t.row3.tbits] [11, 12, 13, 14] &&
  holdsEach [t.row0.rhbits, t.row1.rhbits, t.row2.rhbits, t.row3.rhbits] [8, 10, 11, 12]

/-- A host write gives `CMD` no more than its 16 bits (10_state R11). -/
def HostAct.wellFormed : HostAct → Bool
  | .write 0 v => v.toNat < 65536
  | _ => true

end Sys2Proof
end

