-- ==== Sys2Proof/Decode.lean ====
section
/-! DEFINITION. Decoding of host command words (30_encoding R85 to R89) and of wire codes
(30_encoding R71, R72), and the encoder written from the same tables. -/

namespace Sys2Proof

/-- Why a word is no instruction. -/
inductive Reject where
  /-- The opcode is in no row of 30_encoding R86. -/
  | reservedOpcode
  /-- An `arg` bit that the table shows as 0 is 1 (30_encoding R89). -/
  | reservedArgument
  /-- No wire command has this code (30_encoding R71). -/
  | notAWireCode
  /-- No instruction is this many bits long (30_encoding R72, R85). -/
  | noSuchWidth
deriving DecidableEq, Repr

/-- The opcode of a command word (30_encoding R85). -/
def opOf (w : Word16) : Byte := w.extractLsb' 8 8

/-- The operand byte of a command word (30_encoding R85). -/
def argOf (w : Word16) : Byte := w.extractLsb' 0 8

/-- `i` when the operand byte has no bit outside `used` (30_encoding R89). -/
def withArg (used arg : Byte) (i : Instr) : Except Reject Instr :=
  if arg &&& ~~~used = 0 then .ok i else .error .reservedArgument

/-- A host command word (30_encoding R86, R87). -/
def decodeHost (w : Word16) : Except Reject Instr :=
  let arg := argOf w
  match (opOf w).toNat with
  | 0x01 => withArg 0x01 arg (.begin (arg.getLsbD 0))
  | 0x02 => withArg 0x00 arg .reset
  | 0x03 => withArg 0x00 arg .rdsn
  | 0x10 => withArg 0x00 arg .reload
  | 0x11 => withArg 0xFF arg (.wrreg arg)
  | 0x12 => withArg 0x03 arg (.setres (arg.getLsbD 1) (arg.getLsbD 0))
  | 0x13 => withArg 0x01 arg (.setheat (arg.getLsbD 0))
  | 0x14 => withArg 0x00 arg .getrescode
  | 0x18 => withArg 0x00 arg .getresT
  | 0x19 => withArg 0x00 arg .getresRh
  | 0x1A => withArg 0x00 arg .getctT
  | 0x1B => withArg 0x00 arg .getctRh
  | 0x1C => withArg 0x01 arg (.sethold (arg.getLsbD 0))
  | 0x1D => withArg 0x01 arg (.settyp (arg.getLsbD 0))
  | 0x20 => withArg 0x00 arg .measT
  | 0x21 => withArg 0x00 arg .measRh
  | 0x22 => withArg 0x00 arg .measRhc
  | 0x30 => withArg 0x00 arg .crc8
  | 0x31 => withArg 0xFF arg (.chkcrc arg)
  | 0x32 => withArg 0x00 arg .cvtT
  | 0x33 => withArg 0x00 arg .cvtRh
  | _ => .error .reservedOpcode

/-- A wire code of 8 or 16 bits (30_encoding R71, R72). -/
def decodeWire (nbits : Nat) (code : Word16) : Except Reject Instr :=
  match nbits, code.toNat with
  | 8, 0xE3 => .ok .wMeasTHold
  | 8, 0xE5 => .ok .wMeasRhHold
  | 8, 0xF3 => .ok .wMeasTNohold
  | 8, 0xF5 => .ok .wMeasRhNohold
  | 8, 0xFE => .ok .wSoftReset
  | 8, 0xE6 => .ok .wWriteUreg
  | 8, 0xE7 => .ok .wReadUreg
  | 16, 0xFA0F => .ok .wReadSnb
  | 16, 0xFCC9 => .ok .wReadSnac
  | _, _ => .error .notAWireCode

/-- A word of the opcode table. Host words and 16-bit wire codes share no value: the opcodes `0xFA`
and `0xFC` are reserved (30_encoding R72, R86). -/
def decodeWord (nbits : Nat) (w : Word16) : Except Reject Instr :=
  match nbits with
  | 8 => decodeWire 8 w
  | 16 =>
    match decodeHost w with
    | .ok i => .ok i
    | .error r =>
      match decodeWire 16 w with
      | .ok i => .ok i
      | .error _ => .error r
  | _ => .error .noSuchWidth

/-- The instruction read from an instruction of `nbits` bits. A word is handed over whole, so there is
no byte order to lay out (10_state R11, 20_memory R49). -/
def decodeTableWord (nbits w : Nat) : Option Instr :=
  (decodeWord nbits (BitVec.ofNat 16 w)).toOption

/-- A command word from opcode and operand byte (30_encoding R85). -/
def commandWord (op arg : Byte) : Word16 := op ++ arg

/-- A one-bit operand in `arg[0]` (30_encoding R87). -/
def argBit (b : Bool) : Byte := (BitVec.ofBool b).setWidth 8

/-- The two operand bits of SETRES (30_encoding R87). -/
def argBits (r1 r0 : Bool) : Byte := (BitVec.ofBool r1 ++ BitVec.ofBool r0).setWidth 8

/-- The code of a wire command (30_encoding R71). -/
def Wire.code : Wire → Word16
  | .measTHold => 0x00E3
  | .measRhHold => 0x00E5
  | .measTNohold => 0x00F3
  | .measRhNohold => 0x00F5
  | .softReset => 0x00FE
  | .writeUreg => 0x00E6
  | .readUreg => 0x00E7
  | .readSnb => 0xFA0F
  | .readSnac => 0xFCC9

/-- The length of a wire command in bits (30_encoding R71, R72). -/
def Wire.width : Wire → Nat
  | .readSnb => 16
  | .readSnac => 16
  | _ => 8

/-- The word of an instruction (30_encoding R71, R86). -/
def encode : Instr → Word16
  | .begin hm => commandWord 0x01 (argBit hm)
  | .reset => commandWord 0x02 0x00
  | .rdsn => commandWord 0x03 0x00
  | .reload => commandWord 0x10 0x00
  | .wrreg v => commandWord 0x11 v
  | .setres r1 r0 => commandWord 0x12 (argBits r1 r0)
  | .setheat en => commandWord 0x13 (argBit en)
  | .getrescode => commandWord 0x14 0x00
  | .getresT => commandWord 0x18 0x00
  | .getresRh => commandWord 0x19 0x00
  | .getctT => commandWord 0x1A 0x00
  | .getctRh => commandWord 0x1B 0x00
  | .sethold hm => commandWord 0x1C (argBit hm)
  | .settyp t => commandWord 0x1D (argBit t)
  | .measT => commandWord 0x20 0x00
  | .measRh => commandWord 0x21 0x00
  | .measRhc => commandWord 0x22 0x00
  | .crc8 => commandWord 0x30 0x00
  | .chkcrc c => commandWord 0x31 c
  | .cvtT => commandWord 0x32 0x00
  | .cvtRh => commandWord 0x33 0x00
  | .wMeasTHold => Wire.code .measTHold
  | .wMeasRhHold => Wire.code .measRhHold
  | .wMeasTNohold => Wire.code .measTNohold
  | .wMeasRhNohold => Wire.code .measRhNohold
  | .wSoftReset => Wire.code .softReset
  | .wWriteUreg => Wire.code .writeUreg
  | .wReadUreg => Wire.code .readUreg
  | .wReadSnb => Wire.code .readSnb
  | .wReadSnac => Wire.code .readSnac

/-- The length of an instruction in bits: 16 for a host command, the wire command's own otherwise. -/
def width : Instr → Nat
  | .wMeasTHold => 8
  | .wMeasRhHold => 8
  | .wMeasTNohold => 8
  | .wMeasRhNohold => 8
  | .wSoftReset => 8
  | .wWriteUreg => 8
  | .wReadUreg => 8
  | _ => 16

end Sys2Proof
end

