-- ==== Sys2Proof/Machine/Converter.lean ====
section
/-! DEFINITION. The linear fixed-point converter (44_converter R170 to R179), in exact integers as
44_converter R177 allows. -/

namespace Sys2Proof.Machine

/-- `clamp(v, lo, hi)` (00_scope R7). -/
def clamp (v lo hi : Int) : Int := if v < lo then lo else if v > hi then hi else v

/-- `fdiv(a, b)` for a positive `b` (00_scope R7): Lean's integer division rounds down then. -/
def floorDiv (a b : Int) : Int := a / b

/-- `ConvT(w)` (44_converter R171). -/
def convT (w : Word16) : Int := -4685 * 65536 + 17572 * (w.toNat : Int)

/-- `ConvRHraw(w)` (44_converter R172). -/
def convRhRaw (w : Word16) : Int := -600 * 65536 + 12500 * (w.toNat : Int)

/-- `ConvRH(w)`, clamped to 0.0 and 100.0 (44_converter R172). -/
def convRh (w : Word16) : Int := clamp (convRhRaw w) 0 (10000 * 65536)

/-- `Compensate(rhq, tq)` for the constant `coef` (44_converter R173). -/
def compensate (coef rhq tq : Int) : Int :=
  let d := (tq - 2500 * 65536) * coef
  let adj := floorDiv d 1000
  clamp (rhq + adj) 0 (10000 * 65536)

/-- A value of the converter as the 32-bit word that holds it (44_converter R170). -/
def toWord (q : Int) : Word32 := BitVec.ofInt 32 q

/-- `BAD_Q`, the sentinel (44_converter R178). -/
def badQ : Word32 := 0x639C0000

end Sys2Proof.Machine
end

