-- ==== Sys2Proof/Machine/State.lean ====
section
/-! DEFINITION. The state of the block (10_state R10 to R30), the inputs that reach it from the host and
the transport, and what an observer sees of it (00_scope R8). -/

namespace Sys2Proof.Machine

/-- The kind of a measurement (10_state R25). -/
inductive Kind where
  | t
  | rh
deriving DecidableEq, Repr

/-- The eight measurement states (10_state R26). -/
inductive MeasState where
  | idle
  | commandSent
  | holdWait
  | pollWait
  | frameReceived
  | validated
  | retry
  | failed
deriving DecidableEq, Repr

/-- The result code in `STATUS.ERR` (10_state R22, 60_exceptions R201). The values 8 to 15 never occur. -/
inductive ErrKind where
  /-- 0, success -/
  | none
  /-- 1, ResetError -/
  | reset
  /-- 2, RegisterReadError -/
  | registerRead
  /-- 3, RegisterWriteError -/
  | registerWrite
  /-- 4, SerialNumberError -/
  | serialNumber
  /-- 5, MeasurementError -/
  | measurement
  /-- 6, IllegalOperation -/
  | illegalOperation
  /-- 7, NotBegun -/
  | notBegun
deriving DecidableEq, Repr

/-- What the transport answers to one call (20_memory R46). -/
inductive Answer where
  /-- class `ok`, with the bytes of a receive -/
  | ok (bytes : List Byte)
  /-- class `notReady` with a result code -/
  | notReady (code : Byte)
  /-- class `hardError` with a result code -/
  | hardError (code : Byte)
deriving DecidableEq, Repr

/-- One entry of the transport oracle: an answer, or `none`, the call has not returned yet
(70_reset R237; log 4). -/
abbrev Reply := Option Answer

/-- One transport call with its answer, or one call that has none (00_scope R7). -/
inductive Event where
  /-- `A(a)` -/
  | setAddr (addr : Byte)
  /-- `S(code)` -/
  | send (code : Word16) (answer : Answer)
  /-- `SB(code,b)` -/
  | sendByte (code : Word16) (b : Byte) (answer : Answer)
  /-- `R(code,n)` -/
  | recv (code : Word16) (n : Nat) (answer : Answer)
  /-- `DL(ms)` -/
  | delay (ms : Nat)
deriving DecidableEq, Repr

/-- One line of an operation's pseudocode. An operation is a list of them (10_state R25, `SEQ.PHASE`;
log 8). -/
inductive Micro where
  /-- `BEGUN <- 0` (45_lifecycle R185) -/
  | clearBegun
  /-- `SetAddr(0x40)` (45_lifecycle R185) -/
  | setAddress
  /-- `HOLD <- hm; TYP <- 0` (45_lifecycle R185) -/
  | initModes (hm : Bool)
  /-- `BEGUN <- 1` (45_lifecycle R185) -/
  | setBegun
  /-- `MemWrite(0xFE,0,-)`, `UVALID <- 0` and the test of its class (45_lifecycle R187) -/
  | sendReset
  /-- `Delay(RESET_SETTLE_MS)` (45_lifecycle R187) -/
  | settleDelay
  /-- the compare with `UREG_RESET_VALUE` (45_lifecycle R187) -/
  | checkReset
  /-- `DoReload()` (41_register_cache R111) -/
  | reload
  /-- `DoWrite(SEQ.ARG)` (41_register_cache R112) -/
  | writeArg
  /-- the compare and write of SETRES after its reload (41_register_cache R114) -/
  | changeResolution (r1 r0 : Bool)
  /-- the compare and write of `DoSetHeater(en)` after its reload (41_register_cache R117) -/
  | changeHeater (en : Bool)
  /-- the first half of `DoReadSerial()` (45_lifecycle R190) -/
  | readSnb
  /-- the second half of `DoReadSerial()` (45_lifecycle R190) -/
  | readSnac
  /-- `SEQ.KIND <- kind; SEQ.ATT <- 0; SEQ.MST <- Idle` (43_measurement R151) -/
  | enterMeasure (kind : Kind)
  /-- `SEQ.CT` from the row in force, after the reload of `ConvTime` (43_measurement R147) -/
  | latchConvTime (kind : Kind)
  /-- the attempts of one measurement (43_measurement R151) -/
  | attempts (kind : Kind)
  /-- `RESULT <- ConvT(w)` (43_measurement R155) -/
  | resultT
  /-- `RESULT <- ConvRH(w)` (43_measurement R156) -/
  | resultRh
  /-- `SEQ.TLATCH <- ConvT(wt)` (43_measurement R157) -/
  | latchT
  /-- `RESULT <- Compensate(ConvRH(wr), SEQ.TLATCH)` (43_measurement R157) -/
  | resultRhc
  /-- `RESULT <- zext_32(UREG[7] ‖ UREG[0])` (41_register_cache R118) -/
  | resultCode
  /-- `RESULT <- zext_32(RES_TABLE[RESCODE].TBITS)` (42_resolution R127) -/
  | resultTbits
  /-- `RESULT <- zext_32(RES_TABLE[RESCODE].RHBITS)` (42_resolution R128) -/
  | resultRhbits
  /-- `RESULT` from the row in force, after the reload of `ConvTime` (42_resolution R131, R132) -/
  | resultConvTime (kind : Kind)
  /-- `RESULT <- zext_32(Crc8(PAYLOAD))` (40_crc8 R103) -/
  | resultCrc
  /-- `RESULT` from `CheckCrc8(PAYLOAD, SEQ.ARG)` (40_crc8 R104) -/
  | resultCheck
  /-- `RESULT <- ConvT(PAYLOAD[15:0])` (44_converter R174) -/
  | resultCvtT
  /-- `RESULT <- ConvRH(PAYLOAD[15:0])` (44_converter R175) -/
  | resultCvtRh
  /-- `HOLD <- hm` (42_resolution R133) -/
  | putHold (hm : Bool)
  /-- `TYP <- t` (42_resolution R134) -/
  | putTyp (t : Bool)
deriving DecidableEq, Repr

/-- The sequencer state `SEQ` (10_state R25). -/
structure Seq where
  /-- `SEQ.OP` -/
  op : Option Byte
  /-- `SEQ.ARG` -/
  arg : Byte
  /-- `SEQ.MST` -/
  mst : MeasState
  /-- `SEQ.KIND` -/
  kind : Kind
  /-- `SEQ.ATT` -/
  att : Nat
  /-- `SEQ.CT` -/
  ct : BitVec 16
  /-- `SEQ.FRAME` -/
  frame : List Byte
  /-- `SEQ.WORD` -/
  word : Word16
  /-- `SEQ.TLATCH` -/
  tlatch : Word32
  /-- `SEQ.SNBTMP` -/
  snbtmp : Word32
  /-- `SEQ.PHASE`: the lines of the operation still to run, the first being the one the block is at. -/
  phase : List Micro
deriving DecidableEq, Repr

/-- The whole state (10_state R10), with the parameters (10_state R28) and the model's own fields for the
host's and the transport's inputs and for what is observed (00_scope R8). -/
structure State where
  /-- the parameters; no step changes them -/
  params : Params
  /-- `x[0]` -/
  cmd : Word16
  /-- `x[1]` -/
  payload : Word32
  /-- `STATUS[0]` -/
  busy : Bool
  /-- `STATUS[1]` -/
  begun : Bool
  /-- `STATUS[2]` -/
  uvalid : Bool
  /-- `STATUS[3]` -/
  hold : Bool
  /-- `STATUS[4]` -/
  typ : Bool
  /-- `STATUS[11:8]` -/
  err : ErrKind
  /-- `x[3]` -/
  result : Word32
  /-- `x[5]` -/
  ureg : Byte
  /-- `x[6]` -/
  sna : Word16
  /-- `x[7]` -/
  snb : Word32
  /-- `x[8]` -/
  snc : Word16
  /-- `x[9]` -/
  lastres : Byte
  /-- the sequencer -/
  seq : Seq
  /-- model's own: what the host does next, in order (log 2) -/
  host : List HostAct
  /-- model's own: the transport's coming answers, in order (log 3) -/
  replies : List Reply
  /-- model's own: what every call answers once `replies` is used up (log 3) -/
  after : Reply
  /-- model's own: the transport calls made, oldest first (log 14) -/
  trace : List Event
  /-- model's own: what the last host read returned (log 14) -/
  readData : Word32
  /-- model's own: how many reads returned a free value (log 9) -/
  freeReads : Nat
deriving DecidableEq, Repr

/-- No step of this machine stops with a fault: every failure of the block is a result code in `ERR`
after which the block goes on (60_exceptions R200, R204). So there is no constructor (log 16). -/
inductive Fault where
deriving DecidableEq, Repr

/-- What has no meaning in the spec. Every refusal is safe: the model stops where the spec says nothing. -/
inductive Refusal where
  /-- Raised by an arm of `exec` whose instruction has no meaning yet. Safe. -/
  | notModelled (mnemonic : String)
  /-- Raised by a host write to `CMD` or `PAYLOAD` while `BUSY = 1`, which the spec gives no meaning
  (20_memory R55, 70_reset R236, 93 U1). Safe. -/
  | hostWriteWhileBusy
  /-- Raised by a wire command that is not the transport call the block is at: the block sends it at no
  other time (30_encoding R92). Safe. -/
  | wireOutOfTurn
deriving DecidableEq, Repr

/-- The sequencer at power-on (10_state R30). Every field but `op` and `mst` is unspecified there
(93 U11); its value here is a DESIGN CHOICE (log 7). -/
def Seq.reset : Seq where
  op := none
  arg := 0
  mst := .idle
  kind := .t
  att := 0
  ct := 0
  frame := []
  word := 0
  tlatch := 0
  snbtmp := 0
  phase := []

/-- Power-on (10_state R30, 70_reset R230). The host has nothing to do and the transport answers
nothing: a program and answers are placed from outside (log 2, log 3). -/
def State.reset : State where
  params := Config.params
  cmd := 0
  payload := 0
  busy := false
  begun := false
  uvalid := false
  hold := false
  typ := false
  err := .none
  result := 0
  ureg := 0
  sna := 0
  snb := 0
  snc := 0
  lastres := 0
  seq := Seq.reset
  host := []
  replies := []
  after := none
  trace := []
  readData := 0
  freeReads := 0

end Sys2Proof.Machine
end

