-- ==== Sys2Proof/Machine/Flags.lean ====
section
/-! DEFINITION. The status register, the result codes and the register file as the host reads it
(10_state R11, R19, R22, R23). -/

namespace Sys2Proof.Machine

/-- The number of a result code (10_state R22, 60_exceptions R201). -/
def errCode : ErrKind → BitVec 4
  | .none => 0
  | .reset => 1
  | .registerRead => 2
  | .registerWrite => 3
  | .serialNumber => 4
  | .measurement => 5
  | .illegalOperation => 6
  | .notBegun => 7

/-- The whole `STATUS` register; bits 7:5 and 15:12 read 0 (10_state R19). -/
def statusWord (s : State) : Word16 :=
  0#4 ++ errCode s.err ++ 0#3 ++ BitVec.ofBool s.typ ++ BitVec.ofBool s.hold ++
    BitVec.ofBool s.uvalid ++ BitVec.ofBool s.begun ++ BitVec.ofBool s.busy

/-- The view `RESULT_C = (RESULT >>a 16)[15:0]` (10_state R23). -/
def resultC (s : State) : Word16 := (s.result.sshiftRight 16).setWidth 16

/-- The register file `x[i]`, zero above each register's width; an index of 10 or more reads 0
(10_state R11). -/
def regValue (s : State) (i : Nat) : Word32 :=
  match i with
  | 0 => s.cmd.setWidth 32
  | 1 => s.payload
  | 2 => (statusWord s).setWidth 32
  | 3 => s.result
  | 4 => (resultC s).setWidth 32
  | 5 => s.ureg.setWidth 32
  | 6 => s.sna.setWidth 32
  | 7 => s.snb
  | 8 => s.snc.setWidth 32
  | 9 => s.lastres.setWidth 32
  | _ => 0

/-- The width of register `i` (10_state R11). -/
def regWidth (i : Nat) : Nat :=
  match i with
  | 0 => 16
  | 1 => 32
  | 2 => 16
  | 3 => 32
  | 4 => 16
  | 5 => 8
  | 6 => 16
  | 7 => 32
  | 8 => 16
  | 9 => 8
  | _ => 0

/-- Whether a read of register `i` returns any value: every register but `STATUS` while `BUSY = 1`
(70_reset R236, 93 U1). -/
def readIsOpen (s : State) (i : Nat) : Bool := s.busy && i < 10 && i != 2

/-- The value a host read of register `i` returns; an open one is free within the register's width
(93 U1; log 9). -/
def hostValue (s : State) (i : Nat) : Word32 :=
  if readIsOpen s i then ((Config.busyRead s.freeReads).setWidth (regWidth i)).setWidth 32
  else regValue s i

/-- What a failing operation writes to `RESULT`, by its opcode (60_exceptions R204, 10_state R23,
43_measurement R158). -/
def failureOutput (op : Option Byte) (result : Word32) : Word32 :=
  match op with
  | some o =>
    if 0x20 ≤ o.toNat ∧ o.toNat ≤ 0x22 then badQ
    else if 0x18 ≤ o.toNat ∧ o.toNat ≤ 0x1B then 0
    else result
  | none => result

end Sys2Proof.Machine
end

