-- ==== Sys2Proof/Machine/Crc.lean ====
section
/-! DEFINITION. The CRC-8 function (40_crc8 R100 to R106). -/

namespace Sys2Proof.Machine

/-- One round of the CRC register: the bit `b` is fed in (40_crc8 R101). `0x31` is the polynomial
`0x131` without its top term. -/
def crcStep (crc : Byte) (b : Bool) : Byte :=
  let fb := crc.getLsbD 7 ^^ b
  let shifted := crc <<< 1
  if fb then shifted ^^^ 0x31 else shifted

/-- The bits `n-1` down to 0 of `p` are fed in, the highest first (40_crc8 R101). -/
def crcBits : Nat → Word32 → Byte → Byte
  | 0, _, crc => crc
  | n + 1, p, crc => crcBits n p (crcStep crc (p.getLsbD n))

/-- `Crc8(p)`: all 32 bits, from the start value 0 (40_crc8 R101). -/
def crc8 (p : Word32) : Byte := crcBits 32 p 0x00

/-- `CheckCrc8(p, c)` (40_crc8 R105). -/
def checkCrc8 (p : Word32) (c : Byte) : Bool := crc8 p == c

end Sys2Proof.Machine
end

