-- ==== Sys2Proof/Machine/Operands.lean ====
section
/-! DEFINITION. Operands: the fields of the user register, the row of the resolution table, and the
bytes of the frames (10_state R12 to R17, 30_encoding R76 to R81). -/

namespace Sys2Proof.Machine

/-- A bit as a byte. -/
def bitByte (b : Bool) : Byte := (BitVec.ofBool b).setWidth 8

/-- `HEAT`, bit 2 of the user register (10_state R15). -/
def heatOf (u : Byte) : Bool := u.getLsbD 2

/-- `VDDS`, bit 6 of the user register: the end-of-battery status, which the host reads in `UREG`
(10_state R15, 30_encoding R91). -/
def vddsOf (u : Byte) : Bool := u.getLsbD 6

/-- `RESCODE = UREG[7] ‖ UREG[0]` (10_state R16). -/
def rescodeOf (u : Byte) : BitVec 2 := BitVec.ofBool (u.getLsbD 7) ++ BitVec.ofBool (u.getLsbD 0)

/-- The byte SETRES writes: bits 7 and 0 new, bits 6 to 1 as read (41_register_cache R114). -/
def withResolution (u : Byte) (r1 r0 : Bool) : Byte :=
  (u &&& 0x7E) ||| (bitByte r1 <<< 7) ||| bitByte r0

/-- The byte `DoSetHeater` writes: bit 2 new, the others as read (41_register_cache R117). -/
def withHeater (u : Byte) (en : Bool) : Byte := (u &&& 0xFB) ||| (bitByte en <<< 2)

/-- The row of the table for a resolution code (10_state R17). -/
def rowOf (t : ResTable) (code : BitVec 2) : ResRow :=
  match code.toNat with
  | 0 => t.row0
  | 1 => t.row1
  | 2 => t.row2
  | _ => t.row3

/-- The row in force: the one for the code in `UREG` (42_resolution R130). -/
def rowInForce (s : State) : ResRow := rowOf s.params.resTable (rescodeOf s.ureg)

/-- The conversion time of a row for a kind and a timing column (42_resolution R130). -/
def timeOf (row : ResRow) (kind : Kind) (typ : Bool) : BitVec 16 :=
  match kind with
  | .t => if typ then row.tTyp else row.tMax
  | .rh => if typ then row.rhTyp else row.rhMax

/-- Byte `i` of a frame. -/
def byteAt (bytes : List Byte) (i : Nat) : Byte := bytes.getD i 0

/-- The word of a measurement frame, `bytes[0] ‖ bytes[1]` (43_measurement R141). -/
def measWord (bytes : List Byte) : Word16 := byteAt bytes 0 ++ byteAt bytes 1

/-- `ParseMeas(bytes)`: word, status bits, CRC (43_measurement R141). -/
def parseMeas (bytes : List Byte) : Word16 × BitVec 2 × Byte :=
  (measWord bytes, (byteAt bytes 1).extractLsb' 0 2, byteAt bytes 2)

/-- `StatusCode(kind)` (30_encoding R80). -/
def statusCode : Kind → BitVec 2
  | .t => 0
  | .rh => 2

/-- `ValidMeas(kind, bytes)` (43_measurement R142). -/
def validMeas (kind : Kind) (bytes : List Byte) : Bool :=
  let (word, status, crc) := parseMeas bytes
  status == statusCode kind && checkCrc8 (word.setWidth 32) crc

/-- The word without its status bits (43_measurement R143). -/
def stripStatus (w : Word16) : Word16 := w &&& 0xFFFC

/-- The CRC check of one data byte of serial part B (45_lifecycle R191). -/
def pairOk (bytes : List Byte) (k : Nat) : Bool :=
  checkCrc8 ((byteAt bytes (2 * k)).setWidth 32) (byteAt bytes (2 * k + 1))

/-- `ParseSNB(b)`: `none` is fail (45_lifecycle R191). -/
def parseSnb (b : List Byte) : Option Word32 :=
  if pairOk b 0 && pairOk b 1 && pairOk b 2 && pairOk b 3 then
    some (byteAt b 0 ++ byteAt b 2 ++ byteAt b 4 ++ byteAt b 6)
  else none

/-- The CRC check of one two-byte group of serial part A/C (45_lifecycle R192). -/
def groupOk (bytes : List Byte) (i : Nat) : Bool :=
  checkCrc8 ((byteAt bytes i ++ byteAt bytes (i + 1)).setWidth 32) (byteAt bytes (i + 2))

/-- `ParseSNAC(c)`: the pair (`SNC`, `SNA`), `none` is fail (45_lifecycle R192). -/
def parseSnac (c : List Byte) : Option (Word16 × Word16) :=
  if groupOk c 0 && groupOk c 3 then
    some (byteAt c 0 ++ byteAt c 1, byteAt c 3 ++ byteAt c 4)
  else none

/-- The 64-bit serial number `SN = SNA ‖ SNB ‖ SNC` (10_state R12); GETSN (45_lifecycle R193). -/
def serialNumber (s : State) : BitVec 64 :=
  (s.sna.setWidth 64 <<< 48) ||| (s.snb.setWidth 64 <<< 16) ||| s.snc.setWidth 64

end Sys2Proof.Machine
end

