-- ==== Sys2Proof/Machine/Ops.lean ====
section
/-! DEFINITION. The shared operations: starting, completing and failing an operation (20_memory R55,
60_exceptions R203, R204), the transport calls (20_memory R40 to R47), the lines of pseudocode and the
sequencer that runs them. -/

namespace Sys2Proof.Machine

/-- The block's one bus address, `DEV_ADDR` (20_memory R45, 30_encoding R75). -/
def devAddr : Byte := 0x40

/-- `MAX_ATTEMPTS` (00_scope R6). -/
def maxAttempts : Nat := 3

/-- A host write of `w` to `CMD` while `BUSY = 0` (20_memory R55). -/
def accept (w : Word16) (s : State) : State :=
  { s with cmd := w, busy := true, seq := { s.seq with op := some (opOf w), arg := argOf w } }

/-- The end of every operation: `ERR` written, no operation in progress, `BUSY` 0
(60_exceptions R203, and R204 steps 2 and 3). -/
def finish (k : ErrKind) (s : State) : State :=
  { s with err := k, busy := false, seq := { s.seq with op := none, mst := .idle, phase := [] } }

/-- Completion with success (60_exceptions R203). -/
def complete (s : State) : State := finish .none s

/-- `raise K` for the kinds 1 to 5: the failure output, then the end (60_exceptions R204). -/
def raiseError (k : ErrKind) (s : State) : State :=
  finish k { s with result := failureOutput s.seq.op s.result }

/-- An event is added to the trace (00_scope R7). -/
def emit (e : Event) (s : State) : State := { s with trace := s.trace ++ [e] }

/-- `Delay(ms)` (20_memory R44). -/
def delay (ms : Nat) (s : State) : State := emit (.delay ms) s

/-- A transport call that has an answer (20_memory R41 to R43). -/
inductive Call where
  /-- `MemWrite(code, 0, -)` -/
  | send (w : Wire)
  /-- `MemWrite(code, 1, b)` -/
  | sendByte (w : Wire) (b : Byte)
  /-- `MemRead(code, n)` -/
  | recv (w : Wire) (n : Nat)
deriving DecidableEq, Repr

/-- The wire command a call carries (20_memory R62). -/
def callWire : Call → Wire
  | .send w => w
  | .sendByte w _ => w
  | .recv w _ => w

/-- How many bytes a call asks for (20_memory R52). -/
def callCount : Call → Nat
  | .recv _ n => n
  | _ => 0

/-- Exactly `n` bytes of an `ok` receive (20_memory R43): an oracle entry with fewer is read as followed by
zeros, one with more as cut off (log 5). -/
def exactBytes (n : Nat) (bytes : List Byte) : List Byte := (bytes ++ List.replicate n 0).take n

/-- The code of an answer that is not `ok` is never 0 (20_memory R46): an oracle entry with code 0 is read
as code `0x01` (log 5). -/
def failCode (e : Byte) : Byte := if e = 0 then 0x01 else e

/-- An oracle entry as the answer to a call of `n` bytes (20_memory R43, R46). -/
def deliver (n : Nat) : Answer → Answer
  | .ok bytes => .ok (exactBytes n bytes)
  | .notReady e => .notReady (failCode e)
  | .hardError e => .hardError (failCode e)

/-- The 8-bit result code of an answer (20_memory R46). -/
def answerCode : Answer → Byte
  | .ok _ => 0
  | .notReady e => e
  | .hardError e => e

/-- The event of a call with its answer (00_scope R7). -/
def callEvent (c : Call) (a : Answer) : Event :=
  match c with
  | .send w => .send w.code a
  | .sendByte w b => .sendByte w.code b a
  | .recv w n => .recv w.code n a

/-- What every answered call writes: `LASTRES`, and `SEQ.FRAME` for an `ok` receive
(10_state R24, 20_memory R41 to R43). -/
def heard (c : Call) (a : Answer) (s : State) : State :=
  let s := { emit (callEvent c a) s with lastres := answerCode a }
  match c, a with
  | .recv _ _, .ok bytes => { s with seq := { s.seq with frame := bytes } }
  | _, _ => s

/-- `CmdMeasure(kind, mode)` (30_encoding R73). -/
def cmdMeasure (kind : Kind) (hold : Bool) : Wire :=
  match kind, hold with
  | .t, true => .measTHold
  | .rh, true => .measRhHold
  | .t, false => .measTNohold
  | .rh, false => .measRhNohold

/-- Where a line of pseudocode leaves the block. -/
inductive Progress where
  /-- the line is done; the next one follows -/
  | done (s : State)
  /-- the line is at a transport call -/
  | wait (s : State)
  /-- the line raised an error kind -/
  | raised (k : ErrKind) (s : State)
deriving DecidableEq, Repr

/-- The transport call a line is at (20_memory R62), none when it makes no call in this state. -/
def callOf (m : Micro) (s : State) : Option Call :=
  match m with
  | .sendReset => some (.send .softReset)
  | .reload => if s.uvalid then none else some (.recv .readUreg 1)
  | .writeArg => some (.sendByte .writeUreg s.seq.arg)
  | .changeResolution r1 r0 =>
    if rescodeOf s.ureg = BitVec.ofBool r1 ++ BitVec.ofBool r0 then none
    else some (.sendByte .writeUreg (withResolution s.ureg r1 r0))
  | .changeHeater en =>
    if heatOf s.ureg = en then none
    else some (.sendByte .writeUreg (withHeater s.ureg en))
  | .readSnb => some (.recv .readSnb 8)
  | .readSnac => some (.recv .readSnac 6)
  | .attempts kind =>
    match s.seq.mst with
    | .holdWait => some (.recv (cmdMeasure kind s.hold) 3)
    | .pollWait => some (.recv (cmdMeasure kind s.hold) 3)
    | _ => some (.send (cmdMeasure kind s.hold))
  | _ => none

/-- `RESULT` takes a value. -/
def putResult (v : Word32) (s : State) : State := { s with result := v }

/-- A line of pseudocode up to its transport call, or whole where it makes none. -/
def startLine (m : Micro) (s : State) : Progress :=
  match m with
  | .clearBegun => .done { s with begun := false }
  | .setAddress => .done (emit (.setAddr devAddr) s)
  | .initModes hm => .done { s with hold := hm, typ := false }
  | .setBegun => .done { s with begun := true }
  | .sendReset => .wait s
  | .settleDelay => .done (delay s.params.resetSettleMs s)
  | .checkReset => if s.ureg = s.params.uregResetValue then .done s else .raised .reset s
  | .reload => if s.uvalid then .done s else .wait s
  | .writeArg => .wait s
  | .changeResolution r1 r0 =>
    if rescodeOf s.ureg = BitVec.ofBool r1 ++ BitVec.ofBool r0 then .done s else .wait s
  | .changeHeater en => if heatOf s.ureg = en then .done s else .wait s
  | .readSnb => .wait s
  | .readSnac => .wait s
  | .enterMeasure kind => .done { s with seq := { s.seq with kind := kind, att := 0, mst := .idle } }
  | .latchConvTime kind =>
    .done { s with seq := { s.seq with ct := timeOf (rowInForce s) kind s.typ } }
  -- `SEQ.ATT`, 0 since entry, is incremented as the first attempt starts (43_measurement R146)
  | .attempts _ => .wait { s with seq := { s.seq with att := 1 } }
  | .resultT => .done (putResult (toWord (convT (stripStatus s.seq.word))) s)
  | .resultRh => .done (putResult (toWord (convRh (stripStatus s.seq.word))) s)
  | .latchT =>
    .done { s with seq := { s.seq with tlatch := toWord (convT (stripStatus s.seq.word)) } }
  | .resultRhc =>
    .done (putResult (toWord (compensate s.params.tempCoef.toInt (convRh (stripStatus s.seq.word))
      s.seq.tlatch.toInt)) s)
  | .resultCode => .done (putResult ((rescodeOf s.ureg).setWidth 32) s)
  | .resultTbits => .done (putResult ((rowInForce s).tbits.setWidth 32) s)
  | .resultRhbits => .done (putResult ((rowInForce s).rhbits.setWidth 32) s)
  | .resultConvTime kind => .done (putResult ((timeOf (rowInForce s) kind s.typ).setWidth 32) s)
  | .resultCrc => .done (putResult ((crc8 s.payload).setWidth 32) s)
  | .resultCheck => .done (putResult (if checkCrc8 s.payload s.seq.arg then 1 else 0) s)
  | .resultCvtT => .done (putResult (toWord (convT (s.payload.extractLsb' 0 16))) s)
  | .resultCvtRh => .done (putResult (toWord (convRh (s.payload.extractLsb' 0 16))) s)
  | .putHold hm => .done { s with hold := hm }
  | .putTyp t => .done { s with typ := t }

/-- The measurement state changes (43_measurement R144). -/
def setMst (m : MeasState) (s : State) : State := { s with seq := { s.seq with mst := m } }

/-- An attempt failed: another starts, or none is left (43_measurement R150, R151; R144 rows 2, 6, 9,
11 and 13). -/
def attemptFailed (s : State) : Progress :=
  if s.seq.att < maxAttempts then
    let s := setMst .retry s
    .wait { s with seq := { s.seq with att := s.seq.att + 1 } }
  else .raised .measurement (setMst .idle (setMst .failed s))

/-- A frame came in: it is validated (43_measurement R151; R144 rows 10 to 12). -/
def frameReceived (kind : Kind) (bytes : List Byte) (s : State) : Progress :=
  let s := setMst .frameReceived s
  let s := { s with seq := { s.seq with word := measWord bytes } }
  if validMeas kind bytes then .done (setMst .idle (setMst .validated s)) else attemptFailed s

/-- The command of an attempt was sent: the block goes to the path `HOLD` selects
(43_measurement R145; R144 rows 1, 3 and 4). -/
def commandSent (s : State) : State :=
  let s := setMst .commandSent s
  if s.hold then setMst .holdWait s else setMst .pollWait s

/-- The answer to the call a measurement is at (43_measurement R144, R148, R149). -/
def measureAnswer (kind : Kind) (a : Answer) (s : State) : Progress :=
  match s.seq.mst, a with
  | .holdWait, .ok bytes => frameReceived kind bytes s
  | .holdWait, _ => attemptFailed s
  | .pollWait, .ok bytes => frameReceived kind bytes s
  | .pollWait, .notReady _ => .wait (delay s.seq.ct.toNat s)
  | .pollWait, .hardError _ => attemptFailed s
  | _, .ok _ => .wait (commandSent s)
  | _, _ => attemptFailed s

/-- The answer to a register write: `UVALID` is cleared whatever it is (41_register_cache R113). -/
def writeAnswer (a : Answer) (s : State) : Progress :=
  let s := { s with uvalid := false }
  match a with
  | .ok _ => .done s
  | _ => .raised .registerWrite s

/-- The rest of a line of pseudocode once its transport call is answered. -/
def answerLine (m : Micro) (a : Answer) (s : State) : Progress :=
  match m with
  | .sendReset =>
    let s := { s with uvalid := false }
    match a with
    | .ok _ => .done s
    | _ => .raised .reset s
  | .reload =>
    match a with
    | .ok bytes => .done { s with ureg := byteAt bytes 0, uvalid := true }
    | _ => .raised .registerRead s
  | .writeArg => writeAnswer a s
  | .changeResolution _ _ => writeAnswer a s
  | .changeHeater _ => writeAnswer a s
  | .readSnb =>
    match a with
    | .ok bytes =>
      match parseSnb bytes with
      | some v => .done { s with seq := { s.seq with snbtmp := v } }
      | none => .raised .serialNumber s
    | _ => .raised .serialNumber s
  | .readSnac =>
    match a with
    | .ok bytes =>
      match parseSnac bytes with
      | some (snc, sna) => .done { s with snb := s.seq.snbtmp, snc := snc, sna := sna }
      | none => .raised .serialNumber s
    | _ => .raised .serialNumber s
  | .attempts kind => measureAnswer kind a s
  | _ => .done s

/-- The block runs its lines in order until one is at a transport call, one raises, or none is left and
the operation completes (10_state R25). -/
def runLines : List Micro → State → State
  | [], s => complete s
  | m :: rest, s =>
    match startLine m s with
    | .done s => runLines rest s
    | .wait s => { s with seq := { s.seq with phase := m :: rest } }
    | .raised k s => raiseError k s

/-- How the block goes on after the line `m`, with `rest` after it, was answered. -/
def afterLine (m : Micro) (rest : List Micro) : Progress → State
  | .done s => runLines rest s
  | .wait s => { s with seq := { s.seq with phase := m :: rest } }
  | .raised k s => raiseError k s

/-- The transport call the block is at, with the line it belongs to and the lines after it. -/
def pendingLine (s : State) : Option (Call × Micro × List Micro) :=
  match s.busy, s.seq.phase with
  | true, m :: rest =>
    match callOf m s with
    | some c => some (c, m, rest)
    | none => none
  | _, _ => none

/-- The transport call the block is at. -/
def pendingCall (s : State) : Option Call := (pendingLine s).map (·.1)

/-- One transport call returns: the state update that follows its answer (00_scope R8). -/
def respond (a : Answer) (s : State) : State :=
  match pendingLine s with
  | some (c, m, rest) =>
    let a := deliver (callCount c) a
    afterLine m rest (answerLine m a (heard c a s))
  | none => s

/-- The block goes on as far as the transport's answers go: until the operation completes, a call has
not returned, or no answer is left. -/
def drain : List Reply → State → State
  | [], s => s
  | none :: rest, s => if s.busy then { s with replies := rest } else s
  | some a :: rest, s => if s.busy then drain rest (respond a { s with replies := rest }) else s

/-- A host operation: the word is accepted, the precondition `BEGUN` is tested (30_encoding R88), the
lines run as far as the transport's answers go (00_scope R8). While `BUSY = 1` the write has no meaning
(93 U1). -/
def hostOp (i : Instr) (needsBegun : Bool) (lines : List Micro) (s : State) :
    Host.Outcome State Fault Refusal :=
  if s.busy then .refused .hostWriteWhileBusy
  else if needsBegun && !s.begun then .next (finish .notBegun (accept (encode i) s))
  else .next (drain s.replies (runLines lines (accept (encode i) s)))

/-- A command word that encodes nothing (30_encoding R89, 60_exceptions R211). -/
def illegalWord (w : Word16) (s : State) : Host.Outcome State Fault Refusal :=
  if s.busy then .refused .hostWriteWhileBusy
  else .next (finish .illegalOperation (accept w s))

/-- The next entry of the transport oracle and what is left of it (log 3). -/
def nextReply (s : State) : Reply × List Reply :=
  match s.replies with
  | r :: rest => (r, rest)
  | [] => (s.after, [])

/-- The wire command `w`: when the block is at a transport call of it, that call returns and the update
that follows its answer happens; while it has not returned, nothing does (00_scope R8, log 4). -/
def wireOp (w : Wire) (s : State) : Host.Outcome State Fault Refusal :=
  match pendingCall s with
  | some c =>
    if callWire c = w then
      match nextReply s with
      | (some a, rest) => .next (respond a { s with replies := rest })
      | (none, rest) => .next { s with replies := rest }
    else .refused .wireOutOfTurn
  | none => .refused .wireOutOfTurn

end Sys2Proof.Machine
end

