-- ==== Sys2Proof/Machine/Procedures.lean ====
section
/-! DEFINITION. The procedures the operations call, each as the list of its lines of pseudocode. -/

namespace Sys2Proof.Machine

/-- `DoReset()` (45_lifecycle R187). -/
def doReset : List Micro := [.sendReset, .settleDelay, .reload, .checkReset]

/-- `DoSetHeater(en)` (41_register_cache R117). -/
def doSetHeater (en : Bool) : List Micro := [.reload, .changeHeater en]

/-- `DoReadSerial()` (45_lifecycle R190). -/
def doReadSerial : List Micro := [.readSnb, .readSnac]

/-- `Measure(kind)`: entry, `ConvTime` with its reload, the attempts (43_measurement R151). The word it
returns is `SEQ.WORD` without its status bits. -/
def doMeasure (kind : Kind) : List Micro :=
  [.enterMeasure kind, .reload, .latchConvTime kind, .attempts kind]

end Sys2Proof.Machine
end

