-- ==== Sys2Proof/Machine/CacheOps.lean ====
section
/-! DEFINITION. The user-register cache: RELOAD, WRREG, SETRES, SETHEAT, GETRESCODE (41_register_cache). -/

namespace Sys2Proof.Machine

/-- RELOAD (41_register_cache R110). -/
def execReload (s : State) : Host.Outcome State Fault Refusal :=
  hostOp .reload true [.reload] s

/-- WRREG `v` (41_register_cache R112). -/
def execWrreg (v : Byte) (s : State) : Host.Outcome State Fault Refusal :=
  hostOp (.wrreg v) true [.writeArg] s

/-- SETRES `r1,r0` (41_register_cache R114). -/
def execSetres (r1 r0 : Bool) (s : State) : Host.Outcome State Fault Refusal :=
  hostOp (.setres r1 r0) true [.reload, .changeResolution r1 r0] s

/-- SETHEAT `en` (41_register_cache R116). -/
def execSetheat (en : Bool) (s : State) : Host.Outcome State Fault Refusal :=
  hostOp (.setheat en) true (doSetHeater en) s

/-- GETRESCODE (41_register_cache R118). -/
def execGetrescode (s : State) : Host.Outcome State Fault Refusal :=
  hostOp .getrescode false [.resultCode] s

end Sys2Proof.Machine
end

