-- ==== Sys2Proof/Machine/LifecycleOps.lean ====
section
/-! DEFINITION. The lifecycle operations BEGIN, RESET and RDSN (45_lifecycle). -/

namespace Sys2Proof.Machine

/-- BEGIN `hm` (45_lifecycle R185). It needs no earlier BEGIN. -/
def execBegin (hm : Bool) (s : State) : Host.Outcome State Fault Refusal :=
  hostOp (.begin hm) false ([.clearBegun, .setAddress] ++ doReset ++ doSetHeater false ++ [.initModes hm] ++ doReadSerial ++ [.setBegun]) s

/-- RESET (45_lifecycle R186). -/
def execReset (s : State) : Host.Outcome State Fault Refusal :=
  hostOp .reset true doReset s

/-- RDSN (45_lifecycle R189). -/
def execRdsn (s : State) : Host.Outcome State Fault Refusal :=
  hostOp .rdsn true doReadSerial s

end Sys2Proof.Machine
end

