-- ==== Sys2Proof/Machine/LookupOps.lean ====
section
/-! DEFINITION. Resolution and timing lookup and the mode flags: GETRES_T, GETRES_RH, GETCT_T, GETCT_RH, SETHOLD,
SETTYP (42_resolution). -/

namespace Sys2Proof.Machine

/-- GETRES_T (42_resolution R127). -/
def execGetresT (s : State) : Host.Outcome State Fault Refusal :=
  hostOp .getresT true [.reload, .resultTbits] s

/-- GETRES_RH (42_resolution R128). -/
def execGetresRh (s : State) : Host.Outcome State Fault Refusal :=
  hostOp .getresRh true [.reload, .resultRhbits] s

/-- GETCT_T (42_resolution R130, R131). -/
def execGetctT (s : State) : Host.Outcome State Fault Refusal :=
  hostOp .getctT true [.reload, .resultConvTime .t] s

/-- GETCT_RH (42_resolution R130, R132). -/
def execGetctRh (s : State) : Host.Outcome State Fault Refusal :=
  hostOp .getctRh true [.reload, .resultConvTime .rh] s

/-- SETHOLD `hm` (42_resolution R133). -/
def execSethold (hm : Bool) (s : State) : Host.Outcome State Fault Refusal :=
  hostOp (.sethold hm) false [.putHold hm] s

/-- SETTYP `t` (42_resolution R134). -/
def execSettyp (t : Bool) (s : State) : Host.Outcome State Fault Refusal :=
  hostOp (.settyp t) false [.putTyp t] s

end Sys2Proof.Machine
end

