-- ==== Sys2Proof/Machine/MeasureOps.lean ====
section
/-! DEFINITION. The measurements MEAS_T, MEAS_RH and MEAS_RHC (43_measurement). -/

namespace Sys2Proof.Machine

/-- MEAS_T (43_measurement R155). -/
def execMeasT (s : State) : Host.Outcome State Fault Refusal :=
  hostOp .measT true (doMeasure .t ++ [.resultT]) s

/-- MEAS_RH (43_measurement R156). -/
def execMeasRh (s : State) : Host.Outcome State Fault Refusal :=
  hostOp .measRh true (doMeasure .rh ++ [.resultRh]) s

/-- MEAS_RHC (43_measurement R157). -/
def execMeasRhc (s : State) : Host.Outcome State Fault Refusal :=
  hostOp .measRhc true (doMeasure .t ++ [.latchT] ++ doMeasure .rh ++ [.resultRhc]) s

end Sys2Proof.Machine
end

