-- ==== Sys2Proof/Machine/PureOps.lean ====
section
/-! DEFINITION. The pure operations CRC8, CHKCRC (40_crc8), CVT_T and CVT_RH (44_converter). -/

namespace Sys2Proof.Machine

/-- CRC8 (40_crc8 R103). -/
def execCrc8 (s : State) : Host.Outcome State Fault Refusal :=
  hostOp .crc8 false [.resultCrc] s

/-- CHKCRC `c` (40_crc8 R104). -/
def execChkcrc (c : Byte) (s : State) : Host.Outcome State Fault Refusal :=
  hostOp (.chkcrc c) false [.resultCheck] s

/-- CVT_T (44_converter R174). -/
def execCvtT (s : State) : Host.Outcome State Fault Refusal :=
  hostOp .cvtT false [.resultCvtT] s

/-- CVT_RH (44_converter R175). -/
def execCvtRh (s : State) : Host.Outcome State Fault Refusal :=
  hostOp .cvtRh false [.resultCvtRh] s

end Sys2Proof.Machine
end

