-- ==== Sys2Proof/Machine/WireOps.lean ====
section
/-! DEFINITION. The nine wire commands (30_encoding R71), each the transport call the block is at. -/

namespace Sys2Proof.Machine

/-- W_MEAS_T_HOLD: `MemWrite(0xE3,0,-)` then `MemRead(0xE3,3)` (30_encoding R71, 43_measurement R148). -/
def execWMeasTHold (s : State) : Host.Outcome State Fault Refusal := wireOp .measTHold s

/-- W_MEAS_RH_HOLD: `MemWrite(0xE5,0,-)` then `MemRead(0xE5,3)` (30_encoding R71, 43_measurement R148). -/
def execWMeasRhHold (s : State) : Host.Outcome State Fault Refusal := wireOp .measRhHold s

/-- W_MEAS_T_NOHOLD: `MemWrite(0xF3,0,-)` then `MemRead(0xF3,3)` while not ready (30_encoding R71, 43_measurement R149). -/
def execWMeasTNohold (s : State) : Host.Outcome State Fault Refusal := wireOp .measTNohold s

/-- W_MEAS_RH_NOHOLD: `MemWrite(0xF5,0,-)` then `MemRead(0xF5,3)` while not ready (30_encoding R71, 43_measurement R149). -/
def execWMeasRhNohold (s : State) : Host.Outcome State Fault Refusal := wireOp .measRhNohold s

/-- W_SOFT_RESET: `MemWrite(0xFE,0,-)` (30_encoding R71, 45_lifecycle R187). -/
def execWSoftReset (s : State) : Host.Outcome State Fault Refusal := wireOp .softReset s

/-- W_WRITE_UREG: `MemWrite(0xE6,1,v)` (30_encoding R71, 41_register_cache R113). -/
def execWWriteUreg (s : State) : Host.Outcome State Fault Refusal := wireOp .writeUreg s

/-- W_READ_UREG: `MemRead(0xE7,1)` (30_encoding R71, 41_register_cache R111). -/
def execWReadUreg (s : State) : Host.Outcome State Fault Refusal := wireOp .readUreg s

/-- W_READ_SNB: `MemRead(0xFA0F,8)` (30_encoding R71, 45_lifecycle R190). -/
def execWReadSnb (s : State) : Host.Outcome State Fault Refusal := wireOp .readSnb s

/-- W_READ_SNAC: `MemRead(0xFCC9,6)` (30_encoding R71, 45_lifecycle R190). -/
def execWReadSnac (s : State) : Host.Outcome State Fault Refusal := wireOp .readSnac s

end Sys2Proof.Machine
end

