-- ==== Sys2Proof/Machine/Dispatch.lean ====
section
/-! DEFINITION. One arm per instruction, in the order of spec/opcode_table.json. -/

namespace Sys2Proof.Machine

/-- The meaning of each instruction. -/
def exec (i : Instr) (s : State) : Host.Outcome State Fault Refusal :=
  match i with
  | .begin hm => Sys2Proof.Machine.execBegin hm s
  | .reset => Sys2Proof.Machine.execReset s
  | .rdsn => Sys2Proof.Machine.execRdsn s
  | .reload => Sys2Proof.Machine.execReload s
  | .wrreg v => Sys2Proof.Machine.execWrreg v s
  | .setres r1 r0 => Sys2Proof.Machine.execSetres r1 r0 s
  | .setheat en => Sys2Proof.Machine.execSetheat en s
  | .getrescode => Sys2Proof.Machine.execGetrescode s
  | .getresT => Sys2Proof.Machine.execGetresT s
  | .getresRh => Sys2Proof.Machine.execGetresRh s
  | .getctT => Sys2Proof.Machine.execGetctT s
  | .getctRh => Sys2Proof.Machine.execGetctRh s
  | .sethold hm => Sys2Proof.Machine.execSethold hm s
  | .settyp t => Sys2Proof.Machine.execSettyp t s
  | .measT => Sys2Proof.Machine.execMeasT s
  | .measRh => Sys2Proof.Machine.execMeasRh s
  | .measRhc => Sys2Proof.Machine.execMeasRhc s
  | .crc8 => Sys2Proof.Machine.execCrc8 s
  | .chkcrc c => Sys2Proof.Machine.execChkcrc c s
  | .cvtT => Sys2Proof.Machine.execCvtT s
  | .cvtRh => Sys2Proof.Machine.execCvtRh s
  | .wMeasTHold => Sys2Proof.Machine.execWMeasTHold s
  | .wMeasRhHold => Sys2Proof.Machine.execWMeasRhHold s
  | .wMeasTNohold => Sys2Proof.Machine.execWMeasTNohold s
  | .wMeasRhNohold => Sys2Proof.Machine.execWMeasRhNohold s
  | .wSoftReset => Sys2Proof.Machine.execWSoftReset s
  | .wWriteUreg => Sys2Proof.Machine.execWWriteUreg s
  | .wReadUreg => Sys2Proof.Machine.execWReadUreg s
  | .wReadSnb => Sys2Proof.Machine.execWReadSnb s
  | .wReadSnac => Sys2Proof.Machine.execWReadSnac s

end Sys2Proof.Machine
end

