-- ==== Sys2Proof/Machine/HostPort.lean ====
section
/-! DEFINITION. What comes next: the host's access to the register file (10_state R11, 20_memory R55, R56),
or the wire command the block is at; and where an instruction is placed so that it comes next. -/

namespace Sys2Proof.Machine

/-- The value of a host read is shown to the host; reading changes nothing else (10_state R11), but for the
count of free values used (log 9). -/
def hostRead (i : Nat) (s : State) : State :=
  { s with
    readData := hostValue s i
    freeReads := if readIsOpen s i then s.freeReads + 1 else s.freeReads }

/-- What the machine does next. -/
inductive Fetched where
  /-- it executes an instruction in a state -/
  | instr (i : Instr) (s : State)
  /-- it does something that is no instruction -/
  | plain (o : Host.Outcome State Fault Refusal)

/-- A host write to `CMD`: the word is decoded (20_memory R55, 30_encoding R89). The register takes its
16 bits of the value (log 15). -/
def fetchCommand (v : Word32) (s : State) : Fetched :=
  match decodeHost (v.setWidth 16) with
  | .ok i => .instr i s
  | .error _ => .plain (illegalWord (v.setWidth 16) s)

/-- A host write to `PAYLOAD` (20_memory R53; refused while `BUSY = 1`, 93 U1). -/
def writePayload (v : Word32) (s : State) : Host.Outcome State Fault Refusal :=
  if s.busy then .refused .hostWriteWhileBusy else .next { s with payload := v }

/-- The block goes on: it executes the wire command it is at. Where it is at none, it runs its lines up to
the next (no operation is ever left there). -/
def fetchWire (s : State) : Fetched :=
  match pendingCall s with
  | some c =>
    match decodeWire (callWire c).width (callWire c).code with
    | .ok i => .instr i s
    | .error _ => .plain (.refused .wireOutOfTurn)
  | none => .plain (.next (runLines s.seq.phase s))

/-- What comes next: the first action of the host; the block when the host awaits it or does nothing
(20_memory R50, R56; log 2). With neither, the machine waits (10_state R30). -/
def fetch (s : State) : Fetched :=
  match s.host with
  | .write i v :: rest =>
    let s := { s with host := rest }
    match i with
    | 0 => fetchCommand v s
    | 1 => .plain (writePayload v s)
    | _ => .plain (.next s)
  | .read i :: rest => .plain (.next (hostRead i { s with host := rest }))
  | .await :: rest => if s.busy then fetchWire s else .plain (.next { s with host := rest })
  | [] => if s.busy then fetchWire s else .plain (.next s)

/-- The block is put at the line `m` of an operation `op`, with `rest` after it, and the host awaits it. -/
def placeLine (op : Byte) (lines : List Micro) (s : State) : State :=
  { s with
    busy := true
    host := .await :: s.host
    seq := { s.seq with op := some op, mst := .idle, phase := lines } }

/-- The block is put at the first attempt of a measurement on the path `hold`. -/
def placeMeasure (op : Byte) (kind : Kind) (result : Micro) (hold : Bool) (s : State) : State :=
  let s := placeLine op [.attempts kind, result] { s with hold := hold }
  { s with seq := { s.seq with kind := kind, att := 1 } }

/-- The block is put at a transport call of a wire command, in the shortest operation that makes it
(log 13). -/
def placeWire (w : Wire) (s : State) : State :=
  match w with
  | .measTHold => placeMeasure 0x20 .t .resultT true s
  | .measRhHold => placeMeasure 0x21 .rh .resultRh true s
  | .measTNohold => placeMeasure 0x20 .t .resultT false s
  | .measRhNohold => placeMeasure 0x21 .rh .resultRh false s
  | .softReset => placeLine 0x02 [.sendReset, .settleDelay, .reload, .checkReset] s
  | .writeUreg => placeLine 0x11 [.writeArg] s
  | .readUreg => placeLine 0x10 [.reload] { s with uvalid := false }
  | .readSnb => placeLine 0x03 [.readSnb, .readSnac] s
  | .readSnac => placeLine 0x03 [.readSnac] s

/-- The wire command an instruction is, none for a host command. -/
def wireOf : Instr → Option Wire
  | .wMeasTHold => some .measTHold
  | .wMeasRhHold => some .measRhHold
  | .wMeasTNohold => some .measTNohold
  | .wMeasRhNohold => some .measRhNohold
  | .wSoftReset => some .softReset
  | .wWriteUreg => some .writeUreg
  | .wReadUreg => some .readUreg
  | .wReadSnb => some .readSnb
  | .wReadSnac => some .readSnac
  | _ => none

/-- A word is placed where `step` fetches next: a wire code as the call the block is at, any other word as
the host's next write to `CMD` (log 13). -/
def placeWord (nbits w : Nat) (s : State) : State :=
  match (decodeWord nbits (BitVec.ofNat 16 w)).toOption.bind wireOf with
  | some c => placeWire c s
  | none => { s with host := .write 0 (BitVec.ofNat 32 w) :: s.host }

end Sys2Proof.Machine
end

