-- ==== Sys2Proof/Machine/Step.lean ====
section
/-! DEFINITION. One step of the machine. -/

namespace Sys2Proof.Machine

/-- One step: what comes next is done (00_scope R8; log 1, log 2). -/
def step (s : State) : Host.Outcome State Fault Refusal :=
  match fetch s with
  | .instr i s => exec i s
  | .plain o => o

/-- `s` with the instruction whose bits are `w` placed where `step` fetches its next one (log 13). -/
def State.withFetchWord (s : State) (nbits w : Nat) : State := placeWord nbits w s

end Sys2Proof.Machine
end

