-- ==== Sys2Proof/Safety.lean ====
section
/-! DEFINITION. The terms in which statements about the block are made: the invariant, legal traces, what
an ended operation leaves, and scripts of the transport's answers. -/

namespace Sys2Proof.Machine

/-- The answer is one the contract allows for a call of `n` bytes (20_memory R43, R46). -/
def answerLegal (n : Nat) : Answer → Bool
  | .ok bytes => bytes.length == n
  | .notReady e => e != 0
  | .hardError e => e != 0

/-- The event is one the block may make: the nine wire codes, each with its transport function and byte
count, and the bus address (30_encoding R71, R92, 20_memory R45). -/
def eventLegal : Event → Bool
  | .setAddr a => a == 0x40
  | .send code a => [0x00E3, 0x00E5, 0x00F3, 0x00F5, 0x00FE].contains code && answerLegal 0 a
  | .sendByte code _ a => code == 0x00E6 && answerLegal 0 a
  | .recv code n a =>
    [(0x00E3, 3), (0x00E5, 3), (0x00F3, 3), (0x00F5, 3), (0x00E7, 1), (0xFA0F, 8),
      (0xFCC9, 6)].contains (code, n) && answerLegal n a
  | .delay _ => true

/-- What one event does to the last result code: an answered call sets it (10_state R24). -/
def codeAfter (code : Byte) : Event → Byte
  | .send _ a => answerCode a
  | .sendByte _ _ a => answerCode a
  | .recv _ _ a => answerCode a
  | _ => code

/-- The result code of the last answered call of a trace, 0 when there is none (10_state R24). -/
def lastCode (trace : List Event) : Byte := trace.foldl codeAfter 0

/-- What one event does to the shadow (20_memory R58): a successful register read fills it, a register
write and the reset command empty it. -/
def shadowAfter (shadow : Option Byte) : Event → Option Byte
  | .recv code _ (.ok bytes) => if code = 0x00E7 then some (byteAt bytes 0) else shadow
  | .sendByte code _ _ => if code = 0x00E6 then none else shadow
  | .send code _ => if code = 0x00FE then none else shadow
  | _ => shadow

/-- The shadow a trace leaves, from an empty one (20_memory R58). -/
def shadowOf (trace : List Event) : Option Byte := trace.foldl shadowAfter none

/-- An operation is in progress exactly while `BUSY = 1`, and then the block is at a transport call; idle,
the measurement state is `Idle` and no line is left (10_state R20, R25). -/
def SeqInv (s : State) : Prop :=
  (s.busy = false → s.seq.op = none ∧ s.seq.mst = .idle ∧ s.seq.phase = []) ∧
  (s.busy = true → s.seq.op ≠ none ∧ pendingCall s ≠ none)

/-- The attempt counter stays in 0 to 3 and the frame buffer within 8 bytes (10_state R25). -/
def BoundsInv (s : State) : Prop := s.seq.att ≤ 3 ∧ s.seq.frame.length ≤ 8

/-- The trace holds only legal events (30_encoding R92). -/
def TraceInv (s : State) : Prop := ∀ e ∈ s.trace, eventLegal e = true

/-- `UVALID` says whether the shadow is filled, and a filled shadow is `UREG` (10_state R14). -/
def ShadowInv (s : State) : Prop := shadowOf s.trace = if s.uvalid then some s.ureg else none

/-- `LASTRES` is the code of the last answered transport call (10_state R24). -/
def LastresInv (s : State) : Prop := s.lastres = lastCode s.trace

/-- What a host operation that ended with `k` leaves of its command word and of the sequencer, put on the
state its lines had reached (60_exceptions R203, R204, 20_memory R55). -/
def ended (w : Word16) (k : ErrKind) (s : State) : State :=
  { s with
    cmd := w
    err := k
    busy := false
    seq := { s.seq with op := none, arg := argOf w, mst := .idle, phase := [] } }

/-- The codes a host operation can end with besides 6 (60_exceptions R222). -/
def endCodes : Instr → List ErrKind
  | .begin _ => [.none, .reset, .registerRead, .registerWrite, .serialNumber]
  | .reset => [.none, .reset, .registerRead, .notBegun]
  | .rdsn => [.none, .serialNumber, .notBegun]
  | .reload => [.none, .registerRead, .notBegun]
  | .wrreg _ => [.none, .registerWrite, .notBegun]
  | .setres _ _ => [.none, .registerRead, .registerWrite, .notBegun]
  | .setheat _ => [.none, .registerRead, .registerWrite, .notBegun]
  | .getresT => [.none, .registerRead, .notBegun]
  | .getresRh => [.none, .registerRead, .notBegun]
  | .getctT => [.none, .registerRead, .notBegun]
  | .getctRh => [.none, .registerRead, .notBegun]
  | .measT => [.none, .registerRead, .measurement, .notBegun]
  | .measRh => [.none, .registerRead, .measurement, .notBegun]
  | .measRhc => [.none, .registerRead, .measurement, .notBegun]
  | _ => [.none]

/-- The thirteen operations that need `BEGUN = 1` (30_encoding R88). -/
def needsBegun : Instr → Bool
  | .reset => true
  | .rdsn => true
  | .reload => true
  | .wrreg _ => true
  | .setres _ _ => true
  | .setheat _ => true
  | .getresT => true
  | .getresRh => true
  | .getctT => true
  | .getctRh => true
  | .measT => true
  | .measRh => true
  | .measRhc => true
  | _ => false

/-- The instruction is a host operation, not a wire command. -/
def isHostOp (i : Instr) : Bool := (wireOf i).isNone

/-- The answer is a failure with the result code `e` (20_memory R46). -/
def FailsWith (a : Answer) (e : Byte) : Prop := (a = .notReady e ∨ a = .hardError e) ∧ e ≠ 0

/-- What the transport answers to the reload that opens an operation, when it reads the byte `u`: nothing
when the shadow is valid (41_register_cache R111). -/
def reloadReplies (s : State) (u : Byte) : List Reply := if s.uvalid then [] else [some (.ok [u])]

/-- The trace of that reload. -/
def reloadEvents (s : State) (u : Byte) : List Event :=
  if s.uvalid then [] else [.recv 0x00E7 1 (.ok [u])]

/-- The state after that reload (41_register_cache R111). -/
def reloaded (s : State) (u : Byte) : State :=
  { s with
    ureg := u
    uvalid := true
    lastres := if s.uvalid then s.lastres else 0
    trace := s.trace ++ reloadEvents s u
    seq := { s.seq with frame := if s.uvalid then s.seq.frame else [u] } }

/-- What the transport answers in one attempt of a measurement (43_measurement R146). -/
inductive Attempt where
  /-- the command is not sent -/
  | sendFails (a : Answer)
  /-- the command is sent, the codes of the `notReady` answers of the poll loop, the last answer -/
  | received (polls : List Byte) (last : Answer)
deriving DecidableEq, Repr

/-- The oracle entries of an attempt. -/
def attemptReplies : Attempt → List Reply
  | .sendFails a => [some a]
  | .received polls last =>
    some (.ok []) :: (polls.map fun e => some (.notReady e)) ++ [some last]

/-- The trace of an attempt with the command `code` and the bound `ct` (43_measurement R148, R149). -/
def attemptEvents (code : Word16) (ct : Nat) : Attempt → List Event
  | .sendFails a => [.send code a]
  | .received polls last =>
    .send code (.ok []) ::
      (polls.flatMap fun e => [.recv code 3 (.notReady e), .delay ct]) ++ [.recv code 3 last]

/-- The answers of an attempt are ones the transport may give on the path `hold`: polls only on the
no-hold path, which `notReady` never ends (43_measurement R148, R149). -/
def attemptLegal (hold : Bool) : Attempt → Bool
  | .sendFails (.ok _) => false
  | .sendFails a => answerLegal 0 a
  | .received polls last =>
    (polls.all fun e => e != 0) && (!hold || polls.isEmpty) && answerLegal 3 last &&
      (match last with
        | .notReady _ => hold
        | _ => true)

/-- The attempt fails (43_measurement R146 a, b, c). -/
def attemptIsBad (kind : Kind) : Attempt → Bool
  | .sendFails _ => true
  | .received _ (.ok bytes) => !validMeas kind bytes
  | .received _ _ => true

/-- The result code of the last transport call of an attempt (43_measurement R150). -/
def attemptCode : Attempt → Byte
  | .sendFails a => answerCode a
  | .received _ last => answerCode last

/-- The last frame that attempts leave in `SEQ.FRAME`, from `frame` (20_memory R43). -/
def lastFrame (frame : List Byte) : List Attempt → List Byte
  | [] => frame
  | .received _ (.ok bytes) :: rest => lastFrame bytes rest
  | _ :: rest => lastFrame frame rest

/-- The last word that attempts leave in `SEQ.WORD`, from `word` (43_measurement R151). -/
def lastWord (word : Word16) : List Attempt → Word16
  | [] => word
  | .received _ (.ok bytes) :: rest => lastWord (measWord bytes) rest
  | _ :: rest => lastWord word rest

/-- The measurement command as a number (30_encoding R73). -/
def measureCode : Kind → Bool → Word16
  | .t, true => 0x00E3
  | .rh, true => 0x00E5
  | .t, false => 0x00F3
  | .rh, false => 0x00F5

/-- The measurement command as a row of the opcode table (30_encoding R71, R73). -/
def measureInstr : Kind → Bool → Instr
  | .t, true => .wMeasTHold
  | .rh, true => .wMeasRhHold
  | .t, false => .wMeasTNohold
  | .rh, false => .wMeasRhNohold

/-- The conversion-time bound for the register byte `u` (43_measurement R147). -/
def boundFor (s : State) (u : Byte) (kind : Kind) : BitVec 16 :=
  timeOf (rowOf s.params.resTable (rescodeOf u)) kind s.typ

/-- The state after the entry of a measurement, which reads the byte `u`, and the attempts `tried`
(43_measurement R147, R151). -/
def afterAttempts (kind : Kind) (u : Byte) (tried : List Attempt) (s : State) : State :=
  let entered := reloaded s u
  { entered with
    lastres := (tried.getLast?.map attemptCode).getD entered.lastres
    trace := entered.trace ++
      tried.flatMap (attemptEvents (measureCode kind s.hold) (boundFor s u kind).toNat)
    seq := { entered.seq with
      kind := kind
      att := tried.length
      ct := boundFor s u kind
      mst := .idle
      frame := lastFrame entered.seq.frame tried
      word := lastWord s.seq.word tried } }

/-- The oracle entries of a measurement whose entry reads `u` and that makes the attempts `tried`. -/
def measureReplies (s : State) (u : Byte) (tried : List Attempt) : List Reply :=
  reloadReplies s u ++ tried.flatMap attemptReplies

/-- The attempts all fail, with answers the transport may give. -/
def AllBad (kind : Kind) (hold : Bool) (tried : List Attempt) : Prop :=
  ∀ a ∈ tried, attemptLegal hold a = true ∧ attemptIsBad kind a = true

/-- The attempts end with the good frame `bytes`, after failing ones; at most three in all
(43_measurement R146, R150). -/
def EndsWith (kind : Kind) (hold : Bool) (tried : List Attempt) (bytes : List Byte) : Prop :=
  ∃ bad polls, tried = bad ++ [.received polls (.ok bytes)] ∧ bad.length ≤ 2 ∧
    AllBad kind hold bad ∧ attemptLegal hold (.received polls (.ok bytes)) = true ∧
    validMeas kind bytes = true

/-- Eight rounds of the byte-at-a-time CRC (40_crc8 R106 e). -/
def crcRounds : Nat → Byte → Byte
  | 0, crc => crc
  | n + 1, crc => crcRounds n (if crc.getLsbD 7 then (crc <<< 1) ^^^ 0x31 else crc <<< 1)

/-- The byte-at-a-time form of the CRC, for the four bytes of `p`, the highest first (40_crc8 R106 e). -/
def crcByBytes (p : Word32) : Byte :=
  [p.extractLsb' 24 8, p.extractLsb' 16 8, p.extractLsb' 8 8, p.extractLsb' 0 8].foldl
    (fun crc b => crcRounds 8 (crc ^^^ b)) 0

/-- How many sends of the command `code` a trace holds (43_measurement R152). -/
def sendCount (code : Word16) (trace : List Event) : Nat :=
  trace.countP fun e =>
    match e with
    | .send c _ => c == code
    | _ => false

end Sys2Proof.Machine
end

