-- ==== Sys2Proof/Certificates/Slice0/Obligations.lean ====
section
/-! DEFINITION. The statements about the model, for the provers. -/

open Sys2Proof Sys2Proof.Machine

/-! ### Encoding -/

/-- Every instruction, with every operand value, is read back from its word (30_encoding R71, R85 to R87). -/
def Obligations.DecodeOfEncode : Prop :=
  ∀ i : Instr, decodeTableWord (width i) (encode i).toNat = some i

/-- The decoder accepts exactly the words of the opcode map with no reserved `arg` bit set, and each
accepted word is the word of the host operation read from it (30_encoding R86, R87, R89). -/
def Obligations.DecodedWordsAreLegal : Prop :=
  ∀ w : Word16, ((∃ i, decodeHost w = .ok i) ↔ wordLegal w = true) ∧
    ∀ i, decodeHost w = .ok i → encode i = w ∧ wireOf i = none

/-- A few words written out from 30_encoding R71 and R90. -/
def Obligations.SampleWordsDecode : Prop :=
  decodeTableWord 16 0x1202 = some (.setres true false) ∧
  decodeTableWord 16 0x0101 = some (.begin true) ∧
  decodeTableWord 16 0x1183 = some (.wrreg 0x83) ∧
  decodeTableWord 16 0x2000 = some .measT ∧
  decodeTableWord 8 0xE6 = some .wWriteUreg ∧
  decodeTableWord 16 0xFCC9 = some .wReadSnac

/-! ### Steps, the host and the register file -/

/-- A host write of a legal word to `CMD` runs that instruction (20_memory R55). -/
def Obligations.StepRunsCommandWord : Prop :=
  ∀ (s : State) (v : Word32) (rest : List HostAct) (i : Instr),
    s.host = .write 0 v :: rest → decodeTableWord 16 (v.toNat % 65536) = some i →
      wireOf i = none → step s = exec i { s with host := rest }

/-- While the host waits, the step of a busy block runs the wire command it is at, read from its code
(00_scope R8, 30_encoding R71). -/
def Obligations.StepRunsWireCommand : Prop :=
  ∀ (s : State) (c : Call),
    (s.host = [] ∨ ∃ rest, s.host = .await :: rest) → pendingCall s = some c →
      decodeTableWord (callWire c).width (callWire c).code.toNat = some (callWire c).instr ∧
      step s = exec (callWire c).instr s

/-- A word that encodes nothing ends at once with code 6; the sequencer's latched operand byte apart
(20_memory R55; log 19), only `CMD` and `ERR` change (30_encoding R89, 60_exceptions R211). -/
def Obligations.IllegalWordEndsWithSix : Prop :=
  ∀ (s : State) (v : Word32) (rest : List HostAct),
    s.host = .write 0 v :: rest → s.busy = false → wordLegal (v.setWidth 16) = false →
      step s = .next (ended (v.setWidth 16) .illegalOperation { s with host := rest })

/-- The thirteen operations before a successful BEGIN end at once with code 7 (30_encoding R88,
60_exceptions R212); the latched operand byte apart (log 19), only `CMD` and `ERR` change. -/
def Obligations.NotBegunEndsWithSeven : Prop :=
  ∀ (i : Instr) (s : State), needsBegun i = true → s.busy = false → s.begun = false →
    exec i s = .next (ended (encode i) .notBegun s)

/-- A host write to `CMD` or `PAYLOAD` while `BUSY = 1` has no meaning and is refused, whatever the value
written (93 U1). -/
def Obligations.WriteWhileBusyRefused : Prop :=
  ∀ s : State, s.busy = true →
    (∀ i : Instr, wireOf i = none → exec i s = .refused .hostWriteWhileBusy) ∧
    (∀ v rest, s.host = .write 0 v :: rest → step s = .refused .hostWriteWhileBusy) ∧
    (∀ v rest, s.host = .write 1 v :: rest → step s = .refused .hostWriteWhileBusy)

/-- The host's access to the register file (10_state R11): a read shows the register, extended with zeros
(the model's choice, log 15), and changes nothing else; of the nine registers other than `STATUS`, while
`BUSY = 1`, what a read shows is free (the model's choice, log 9); a write to `PAYLOAD` stores; a write to any
index from 2 on changes nothing. -/
def Obligations.HostRegisterAccess : Prop :=
  (∀ (s : State) (i : Nat) (rest : List HostAct), s.host = .read i :: rest →
    (s.busy = false ∨ i = 2 ∨ 10 ≤ i →
      step s = .next { s with host := rest, readData := regValue s i }) ∧
    (∃ v n, step s = .next { s with host := rest, readData := v, freeReads := n })) ∧
  (∀ (s : State) (v : Word32) (rest : List HostAct), s.host = .write 1 v :: rest → s.busy = false →
      step s = .next { s with host := rest, payload := v }) ∧
  (∀ (s : State) (i : Nat) (v : Word32) (rest : List HostAct), 2 ≤ i → s.host = .write i v :: rest →
      step s = .next { s with host := rest })

/-- What each index of the register file reads (10_state R11, R23), `STATUS` bit by bit (10_state R19) with
the number of each of the eight result codes (10_state R22, 60_exceptions R201), and the serial number, which
is the three fields side by side and the source's two shifts (10_state R12). That a register narrower than 32
bits, `RESULT_C` included, reads extended with zeros is the model's choice (log 15). -/
def Obligations.RegisterFileView : Prop :=
  (∀ s : State,
    regValue s 0 = s.cmd.setWidth 32 ∧ regValue s 1 = s.payload ∧
    regValue s 2 = (statusWord s).setWidth 32 ∧ regValue s 3 = s.result ∧
    regValue s 4 = ((s.result.sshiftRight 16).setWidth 16).setWidth 32 ∧
    regValue s 5 = s.ureg.setWidth 32 ∧ regValue s 6 = s.sna.setWidth 32 ∧
    regValue s 7 = s.snb ∧ regValue s 8 = s.snc.setWidth 32 ∧
    regValue s 9 = s.lastres.setWidth 32 ∧ (∀ i, 10 ≤ i → regValue s i = 0) ∧
    (statusWord s).getLsbD 0 = s.busy ∧ (statusWord s).getLsbD 1 = s.begun ∧
    (statusWord s).getLsbD 2 = s.uvalid ∧ (statusWord s).getLsbD 3 = s.hold ∧
    (statusWord s).getLsbD 4 = s.typ ∧ (statusWord s).extractLsb' 5 3 = 0 ∧
    (statusWord s).extractLsb' 8 4 = errCode s.err ∧ (statusWord s).extractLsb' 12 4 = 0 ∧
    (serialNumber s).extractLsb' 48 16 = s.sna ∧ (serialNumber s).extractLsb' 16 32 = s.snb ∧
    (serialNumber s).extractLsb' 0 16 = s.snc ∧
    serialNumber s =
      ((s.sna.setWidth 64 <<< 32 ||| s.snb.setWidth 64) <<< 16) ||| s.snc.setWidth 64) ∧
  errCode .none = 0 ∧ errCode .reset = 1 ∧ errCode .registerRead = 2 ∧ errCode .registerWrite = 3 ∧
  errCode .serialNumber = 4 ∧ errCode .measurement = 5 ∧ errCode .illegalOperation = 6 ∧
  errCode .notBegun = 7

/-- Power-on puts the registers and flags at the values of 10_state R30 and makes no transport call
(70_reset R230); the invariants below hold there. -/
def Obligations.PowerOnValues : Prop :=
  let s := State.reset
  s.cmd = 0 ∧ s.payload = 0 ∧ s.busy = false ∧ s.begun = false ∧ s.uvalid = false ∧ s.hold = false ∧
  s.typ = false ∧ s.err = .none ∧ s.result = 0 ∧ s.ureg = 0 ∧ s.sna = 0 ∧ s.snb = 0 ∧ s.snc = 0 ∧
  s.lastres = 0 ∧ s.seq.op = none ∧ s.seq.mst = .idle ∧ statusWord s = 0 ∧ s.trace = [] ∧
  SeqInv s ∧ BoundsInv s ∧ TraceInv s ∧ ShadowInv s ∧ LastresInv s

/-! ### The CRC -/

/-- The CRC is linear, so that the zero payload has CRC 0, and a word followed by its CRC has CRC 0
(40_crc8 R106 b, c, d). -/
def Obligations.CrcLinearWithZeroResidue : Prop :=
  crc8 0 = 0 ∧ (∀ a b : Word32, crc8 (a ^^^ b) = crc8 a ^^^ crc8 b) ∧
  ∀ w : Word16, crc8 ((w ++ crc8 (w.setWidth 32)).setWidth 32) = 0

/-- The check accepts every 16-bit word with its CRC and rejects it after any one bit of the word or of
the CRC is flipped (40_crc8 R106 a). -/
def Obligations.CrcDetectsBitFlips : Prop :=
  ∀ w : Word16,
    checkCrc8 (w.setWidth 32) (crc8 (w.setWidth 32)) = true ∧
    (∀ i, i < 16 →
      checkCrc8 ((w ^^^ (1#16 <<< i)).setWidth 32) (crc8 (w.setWidth 32)) = false) ∧
    (∀ j, j < 8 →
      checkCrc8 (w.setWidth 32) (crc8 (w.setWidth 32) ^^^ (1#8 <<< j)) = false)

/-- The bit-serial CRC is the byte-at-a-time CRC (40_crc8 R106 e). -/
def Obligations.CrcByBytesAgrees : Prop := ∀ p : Word32, crc8 p = crcByBytes p

/-- CRC8: the result, and that a word with a non-zero operand byte is no instruction (40_crc8 R103). -/
def Obligations.Crc8Result : Prop :=
  (∀ s : State, s.busy = false →
    exec .crc8 s = .next (ended 0x3000 .none { s with result := (crc8 s.payload).setWidth 32 })) ∧
  (∀ arg : Byte, arg ≠ 0 → decodeHost (0x30#8 ++ arg) = .error .reservedArgument)

/-- CHKCRC: 1 or 0 as the check says; every operand byte is legal (40_crc8 R104). -/
def Obligations.ChkcrcResult : Prop :=
  ∀ (s : State) (c : Byte), s.busy = false →
    decodeHost (0x31#8 ++ c) = .ok (.chkcrc c) ∧
    exec (.chkcrc c) s = .next (ended (0x31#8 ++ c) .none
      { s with result := if crc8 s.payload = c then 1 else 0 })

/-! ### The converter -/

/-- CVT_T: the formula on the low half of `PAYLOAD` (44_converter R171, R174). -/
def Obligations.CvtTResult : Prop :=
  ∀ s : State, s.busy = false → ∃ t, exec .cvtT s = .next t ∧
    t = ended 0x3200 .none { s with result := t.result } ∧
    t.result.toInt = -307036160 + 17572 * ((s.payload.extractLsb' 0 16).toNat : Int)

/-- CVT_RH: the clamped formula on the low half of `PAYLOAD`: 0 up to the word `0x0C49`, 100.0 from the
word `0xD917` (44_converter R172, R175). -/
def Obligations.CvtRhResult : Prop :=
  ∀ s : State, s.busy = false → ∃ t, exec .cvtRh s = .next t ∧
    t = ended 0x3300 .none { s with result := t.result } ∧
    t.result.toInt =
      if (s.payload.extractLsb' 0 16).toNat ≤ 3145 then 0
      else if 55575 ≤ (s.payload.extractLsb' 0 16).toNat then 655360000
      else -39321600 + 12500 * ((s.payload.extractLsb' 0 16).toNat : Int)

/-- The ranges of the converter: every result of a measurement fits 32 signed bits, no good value is the
sentinel, and `RESULT_C` of each is the value in whole hundredths, rounded down, in its range
(44_converter R178, R179, 10_state R23). -/
def Obligations.ConverterRanges : Prop :=
  (∀ w : Word16, -307036160 ≤ convT w ∧ convT w ≤ 844544860 ∧ (toWord (convT w)).toInt = convT w) ∧
  (∀ w : Word16, 0 ≤ convRh w ∧ convRh w ≤ 655360000 ∧ (toWord (convRh w)).toInt = convRh w) ∧
  (∀ coef rhq tq : Int, 0 ≤ compensate coef rhq tq ∧ compensate coef rhq tq ≤ 655360000 ∧
    (toWord (compensate coef rhq tq)).toInt = compensate coef rhq tq ∧
    toWord (compensate coef rhq tq) ≠ badQ) ∧
  (∀ w : Word16, toWord (convT w) ≠ badQ ∧ toWord (convRh w) ≠ badQ) ∧
  (∀ w v : Word16, w.toNat < v.toNat → convT w < convT v ∧ convRhRaw w < convRhRaw v) ∧
  (∀ coef : BitVec 16, ∀ w : Word16,
    ((convT w - 163840000) * coef.toInt).natAbs ≤ 22305336852480) ∧
  (∀ (s : State) (w : Word16),
    let c := (resultC { s with result := toWord (convT w) }).toInt
    65536 * c ≤ convT w ∧ convT w < 65536 * c + 65536 ∧ -4685 ≤ c ∧ c ≤ 12886) ∧
  (∀ (s : State) (w : Word16),
    let c := (resultC { s with result := toWord (convRh w) }).toInt
    65536 * c ≤ convRh w ∧ convRh w < 65536 * c + 65536 ∧ 0 ≤ c ∧ c ≤ 10000) ∧
  (∀ (s : State) (coef rhq tq : Int),
    let c := (resultC { s with result := toWord (compensate coef rhq tq) }).toInt
    65536 * c ≤ compensate coef rhq tq ∧ compensate coef rhq tq < 65536 * c + 65536 ∧
      0 ≤ c ∧ c ≤ 10000) ∧
  (∀ s : State, (resultC { s with result := badQ }).toInt = 25500)

/-- `Compensate`: the humidity moves by the floor of the product over 1000, and the result is clamped; at
25.0 degrees nothing moves (44_converter R173). -/
def Obligations.CompensateFormula : Prop :=
  ∀ coef rhq tq : Int, ∃ adj : Int,
    1000 * adj ≤ (tq - 163840000) * coef ∧ (tq - 163840000) * coef < 1000 * adj + 1000 ∧
    compensate coef rhq tq = max 0 (min 655360000 (rhq + adj)) ∧
    (tq = 163840000 → adj = 0)

/-! ### The user-register cache -/

/-- GETRESCODE: the two resolution bits of `UREG`, whether or not the shadow is valid
(41_register_cache R118). -/
def Obligations.GetrescodeResult : Prop :=
  ∀ s : State, s.busy = false → ∃ t, exec .getrescode s = .next t ∧
    t = ended 0x1400 .none { s with result := t.result } ∧
    t.result.toNat = 2 * (s.ureg.getLsbD 7).toNat + (s.ureg.getLsbD 0).toNat

/-- RELOAD with a valid shadow makes no call; with an invalid one it reads the byte, or fails and leaves
`UREG` alone (41_register_cache R110, R111). -/
def Obligations.ReloadResult : Prop :=
  ∀ s : State, s.busy = false → s.begun = true →
    (s.uvalid = true → exec .reload s = .next (ended 0x1000 .none s)) ∧
    (∀ b rest, s.uvalid = false → s.replies = some (.ok [b]) :: rest →
      exec .reload s = .next (ended 0x1000 .none { s with
        replies := rest, ureg := b, uvalid := true, lastres := 0
        trace := s.trace ++ [.recv 0x00E7 1 (.ok [b])]
        seq := { s.seq with frame := [b] } })) ∧
    (∀ a e rest, s.uvalid = false → FailsWith a e → s.replies = some a :: rest →
      exec .reload s = .next (ended 0x1000 .registerRead { s with
        replies := rest, lastres := e, trace := s.trace ++ [.recv 0x00E7 1 a] }))

/-- WRREG sends the byte as given and clears `UVALID`, whether or not the write succeeds; `UREG` keeps its
value (41_register_cache R112, R113). -/
def Obligations.WrregResult : Prop :=
  ∀ (s : State) (v : Byte), s.busy = false → s.begun = true →
    (∀ rest, s.replies = some (.ok []) :: rest →
      exec (.wrreg v) s = .next (ended (0x11#8 ++ v) .none { s with
        replies := rest, uvalid := false, lastres := 0
        trace := s.trace ++ [.sendByte 0x00E6 v (.ok [])] })) ∧
    (∀ a e rest, FailsWith a e → s.replies = some a :: rest →
      exec (.wrreg v) s = .next (ended (0x11#8 ++ v) .registerWrite { s with
        replies := rest, uvalid := false, lastres := e
        trace := s.trace ++ [.sendByte 0x00E6 v a] }))

/-- SETRES: a reload if needed; no write when the code matches; else one write of the byte with bits 7 and
0 new and bits 6 to 1 as read, which leaves `UREG` and clears `UVALID` (41_register_cache R114). -/
def Obligations.SetresResult : Prop :=
  ∀ (s : State) (r1 r0 : Bool) (u : Byte), s.busy = false → s.begun = true →
    (s.uvalid = true → u = s.ureg) →
    let w := 0x1200#16 ||| ((BitVec.ofBool r1).setWidth 16 <<< 1) ||| (BitVec.ofBool r0).setWidth 16
    let v := (u &&& 0x7E) ||| ((BitVec.ofBool r1).setWidth 8 <<< 7) ||| (BitVec.ofBool r0).setWidth 8
    (∀ rest, u.getLsbD 7 = r1 ∧ u.getLsbD 0 = r0 → s.replies = reloadReplies s u ++ rest →
      exec (.setres r1 r0) s = .next (ended w .none { reloaded s u with replies := rest })) ∧
    (∀ rest, ¬ (u.getLsbD 7 = r1 ∧ u.getLsbD 0 = r0) →
      s.replies = reloadReplies s u ++ some (.ok []) :: rest →
      exec (.setres r1 r0) s = .next (ended w .none { reloaded s u with
        replies := rest, uvalid := false, lastres := 0
        trace := s.trace ++ reloadEvents s u ++ [.sendByte 0x00E6 v (.ok [])] })) ∧
    (∀ a e rest, ¬ (u.getLsbD 7 = r1 ∧ u.getLsbD 0 = r0) → FailsWith a e →
      s.replies = reloadReplies s u ++ some a :: rest →
      exec (.setres r1 r0) s = .next (ended w .registerWrite { reloaded s u with
        replies := rest, uvalid := false, lastres := e
        trace := s.trace ++ reloadEvents s u ++ [.sendByte 0x00E6 v a] })) ∧
    (∀ a e rest, s.uvalid = false → FailsWith a e → s.replies = some a :: rest →
      exec (.setres r1 r0) s = .next (ended w .registerRead { s with
        replies := rest, lastres := e, trace := s.trace ++ [.recv 0x00E7 1 a] }))

/-- SETHEAT: as SETRES, for bit 2 (41_register_cache R116, R117). -/
def Obligations.SetheatResult : Prop :=
  ∀ (s : State) (en : Bool) (u : Byte), s.busy = false → s.begun = true →
    (s.uvalid = true → u = s.ureg) →
    let w := 0x1300#16 ||| (BitVec.ofBool en).setWidth 16
    let v := (u &&& 0xFB) ||| ((BitVec.ofBool en).setWidth 8 <<< 2)
    (∀ rest, u.getLsbD 2 = en → s.replies = reloadReplies s u ++ rest →
      exec (.setheat en) s = .next (ended w .none { reloaded s u with replies := rest })) ∧
    (∀ rest, u.getLsbD 2 ≠ en → s.replies = reloadReplies s u ++ some (.ok []) :: rest →
      exec (.setheat en) s = .next (ended w .none { reloaded s u with
        replies := rest, uvalid := false, lastres := 0
        trace := s.trace ++ reloadEvents s u ++ [.sendByte 0x00E6 v (.ok [])] })) ∧
    (∀ a e rest, u.getLsbD 2 ≠ en → FailsWith a e →
      s.replies = reloadReplies s u ++ some a :: rest →
      exec (.setheat en) s = .next (ended w .registerWrite { reloaded s u with
        replies := rest, uvalid := false, lastres := e
        trace := s.trace ++ reloadEvents s u ++ [.sendByte 0x00E6 v a] })) ∧
    (∀ a e rest, s.uvalid = false → FailsWith a e → s.replies = some a :: rest →
      exec (.setheat en) s = .next (ended w .registerRead { s with
        replies := rest, lastres := e, trace := s.trace ++ [.recv 0x00E7 1 a] }))

/-- A second SETRES with the same operands writes nothing when the register it reads back shows the code:
over both calls there is one register write and one register read (41_register_cache R119). -/
def Obligations.SetresWritesOnce : Prop :=
  ∀ (s : State) (r1 r0 : Bool) (b : Byte) (rest : List Reply),
    s.busy = false → s.begun = true → s.uvalid = true →
    ¬ (s.ureg.getLsbD 7 = r1 ∧ s.ureg.getLsbD 0 = r0) → b.getLsbD 7 = r1 ∧ b.getLsbD 0 = r0 →
    s.replies = some (.ok []) :: some (.ok [b]) :: rest →
    let v := (s.ureg &&& 0x7E) ||| ((BitVec.ofBool r1).setWidth 8 <<< 7) |||
      (BitVec.ofBool r0).setWidth 8
    ∃ t t', exec (.setres r1 r0) s = .next t ∧ exec (.setres r1 r0) t = .next t' ∧
      t'.trace = s.trace ++ [.sendByte 0x00E6 v (.ok []), .recv 0x00E7 1 (.ok [b])] ∧
      t'.replies = rest ∧ t.err = .none ∧ t'.err = .none ∧ t.busy = false ∧ t'.busy = false ∧
      t'.ureg = b ∧ t'.uvalid = true

/-- The same for SETHEAT: a second one with the same operand writes nothing when the register it reads back
shows the heater bit asked for (41_register_cache R119). -/
def Obligations.SetheatWritesOnce : Prop :=
  ∀ (s : State) (en : Bool) (b : Byte) (rest : List Reply),
    s.busy = false → s.begun = true → s.uvalid = true →
    s.ureg.getLsbD 2 ≠ en → b.getLsbD 2 = en →
    s.replies = some (.ok []) :: some (.ok [b]) :: rest →
    let v := (s.ureg &&& 0xFB) ||| ((BitVec.ofBool en).setWidth 8 <<< 2)
    ∃ t t', exec (.setheat en) s = .next t ∧ exec (.setheat en) t = .next t' ∧
      t'.trace = s.trace ++ [.sendByte 0x00E6 v (.ok []), .recv 0x00E7 1 (.ok [b])] ∧
      t'.replies = rest ∧ t.err = .none ∧ t'.err = .none ∧ t.busy = false ∧ t'.busy = false ∧
      t'.ureg = b ∧ t'.uvalid = true

/-! ### Resolution, timing and mode flags -/

/-- GETRES_T and GETRES_RH: the bit depth of the row in force after the reload; a failed reload leaves
`RESULT = 0` (42_resolution R127, R128). The row in force is the one of the table that bits 7 and 0 of the
register count out: 00, 01, 10, 11 for the four rows in order (10_state R16, R17). -/
def Obligations.GetresResult : Prop :=
  ∀ (s : State) (u : Byte), s.busy = false → s.begun = true → (s.uvalid = true → u = s.ureg) →
    let row :=
      if u.getLsbD 7 then
        if u.getLsbD 0 then s.params.resTable.row3 else s.params.resTable.row2
      else if u.getLsbD 0 then s.params.resTable.row1 else s.params.resTable.row0
    rowOf s.params.resTable (rescodeOf u) = row ∧
    (∀ rest, s.replies = reloadReplies s u ++ rest →
      exec .getresT s = .next (ended 0x1800 .none { reloaded s u with
        replies := rest, result := row.tbits.setWidth 32 }) ∧
      exec .getresRh s = .next (ended 0x1900 .none { reloaded s u with
        replies := rest, result := row.rhbits.setWidth 32 })) ∧
    (∀ a e rest, s.uvalid = false → FailsWith a e → s.replies = some a :: rest →
      exec .getresT s = .next (ended 0x1800 .registerRead { s with
        replies := rest, lastres := e, result := 0, trace := s.trace ++ [.recv 0x00E7 1 a] }) ∧
      exec .getresRh s = .next (ended 0x1900 .registerRead { s with
        replies := rest, lastres := e, result := 0, trace := s.trace ++ [.recv 0x00E7 1 a] }))

/-- GETCT_T and GETCT_RH: the typical or the maximum time of the row in force after the reload; a failed
reload leaves `RESULT = 0` (42_resolution R130, R131, R132). The row is written out from bits 7 and 0 of the
register (10_state R16, R17). -/
def Obligations.GetctResult : Prop :=
  ∀ (s : State) (u : Byte), s.busy = false → s.begun = true → (s.uvalid = true → u = s.ureg) →
    let row :=
      if u.getLsbD 7 then
        if u.getLsbD 0 then s.params.resTable.row3 else s.params.resTable.row2
      else if u.getLsbD 0 then s.params.resTable.row1 else s.params.resTable.row0
    (∀ rest, s.replies = reloadReplies s u ++ rest →
      exec .getctT s = .next (ended 0x1A00 .none { reloaded s u with
        replies := rest, result := (if s.typ then row.tTyp else row.tMax).setWidth 32 }) ∧
      exec .getctRh s = .next (ended 0x1B00 .none { reloaded s u with
        replies := rest, result := (if s.typ then row.rhTyp else row.rhMax).setWidth 32 })) ∧
    (∀ a e rest, s.uvalid = false → FailsWith a e → s.replies = some a :: rest →
      exec .getctT s = .next (ended 0x1A00 .registerRead { s with
        replies := rest, lastres := e, result := 0, trace := s.trace ++ [.recv 0x00E7 1 a] }) ∧
      exec .getctRh s = .next (ended 0x1B00 .registerRead { s with
        replies := rest, lastres := e, result := 0, trace := s.trace ++ [.recv 0x00E7 1 a] }))

/-- SETHOLD writes `HOLD`, SETTYP writes `TYP`, and nothing else but `CMD` and `ERR` changes, before and
after BEGIN (42_resolution R133, R134; the latched operand byte apart, log 19). -/
def Obligations.ModeFlagsWritten : Prop :=
  ∀ (s : State) (b : Bool), s.busy = false →
    exec (.sethold b) s = .next (ended (0x1C00#16 ||| (BitVec.ofBool b).setWidth 16) .none
      { s with hold := b }) ∧
    exec (.settyp b) s = .next (ended (0x1D00#16 ||| (BitVec.ofBool b).setWidth 16) .none
      { s with typ := b })

/-! ### Lifecycle -/

/-- RESET: a send that fails, a re-read that fails, a register that differs, success
(45_lifecycle R186, R187). -/
def Obligations.ResetResult : Prop :=
  ∀ s : State, s.busy = false → s.begun = true →
    (∀ a e rest, FailsWith a e → s.replies = some a :: rest →
      exec .reset s = .next (ended 0x0200 .reset { s with
        replies := rest, uvalid := false, lastres := e, trace := s.trace ++ [.send 0x00FE a] })) ∧
    (∀ a e rest, FailsWith a e → s.replies = some (.ok []) :: some a :: rest →
      exec .reset s = .next (ended 0x0200 .registerRead { s with
        replies := rest, uvalid := false, lastres := e
        trace := s.trace ++
          [.send 0x00FE (.ok []), .delay s.params.resetSettleMs, .recv 0x00E7 1 a] })) ∧
    (∀ v rest, s.replies = some (.ok []) :: some (.ok [v]) :: rest →
      exec .reset s = .next (ended 0x0200 (if v = s.params.uregResetValue then .none else .reset) { s with
        replies := rest, ureg := v, uvalid := true, lastres := 0
        trace := s.trace ++
          [.send 0x00FE (.ok []), .delay s.params.resetSettleMs, .recv 0x00E7 1 (.ok [v])]
        seq := { s.seq with frame := [v] } }))

/-- RDSN: part B, then part A/C, each checked as it comes; the three fields are written together or not at
all (45_lifecycle R189, R190). -/
def Obligations.RdsnResult : Prop :=
  ∀ s : State, s.busy = false → s.begun = true →
    (∀ a e rest, FailsWith a e → s.replies = some a :: rest →
      exec .rdsn s = .next (ended 0x0300 .serialNumber { s with
        replies := rest, lastres := e, trace := s.trace ++ [.recv 0xFA0F 8 a] })) ∧
    (∀ (b : List Byte) rest, b.length = 8 → parseSnb b = none → s.replies = some (.ok b) :: rest →
      exec .rdsn s = .next (ended 0x0300 .serialNumber { s with
        replies := rest, lastres := 0, trace := s.trace ++ [.recv 0xFA0F 8 (.ok b)]
        seq := { s.seq with frame := b } })) ∧
    (∀ (b : List Byte) v a e rest, b.length = 8 → parseSnb b = some v → FailsWith a e →
      s.replies = some (.ok b) :: some a :: rest →
      exec .rdsn s = .next (ended 0x0300 .serialNumber { s with
        replies := rest, lastres := e
        trace := s.trace ++ [.recv 0xFA0F 8 (.ok b), .recv 0xFCC9 6 a]
        seq := { s.seq with frame := b, snbtmp := v } })) ∧
    (∀ (b c : List Byte) v rest, b.length = 8 → c.length = 6 → parseSnb b = some v →
      parseSnac c = none → s.replies = some (.ok b) :: some (.ok c) :: rest →
      exec .rdsn s = .next (ended 0x0300 .serialNumber { s with
        replies := rest, lastres := 0
        trace := s.trace ++ [.recv 0xFA0F 8 (.ok b), .recv 0xFCC9 6 (.ok c)]
        seq := { s.seq with frame := c, snbtmp := v } })) ∧
    (∀ (b c : List Byte) v snc sna rest, b.length = 8 → c.length = 6 → parseSnb b = some v →
      parseSnac c = some (snc, sna) → s.replies = some (.ok b) :: some (.ok c) :: rest →
      exec .rdsn s = .next (ended 0x0300 .none { s with
        replies := rest, lastres := 0, sna := sna, snb := v, snc := snc
        trace := s.trace ++ [.recv 0xFA0F 8 (.ok b), .recv 0xFCC9 6 (.ok c)]
        seq := { s.seq with frame := c, snbtmp := v } }))

/-- The parsers of the serial frames accept a frame exactly when every pair passes its CRC, and put the
bytes together most significant first (45_lifecycle R191, R192). A measurement frame is valid exactly when
its status bits are those of the kind asked for and its CRC is right, so status `01` or `11` is valid for no
kind (30_encoding R80, 43_measurement R142). The layout of the frames, the high byte first, part B as four data
bytes each with its CRC, SNC before SNA, is presumed and not the source's (log 17). -/
def Obligations.FramesParsed : Prop :=
  (∀ b0 c0 b1 c1 b2 c2 b3 c3 : Byte,
    parseSnb [b0, c0, b1, c1, b2, c2, b3, c3] =
      if crc8 (b0.setWidth 32) = c0 ∧ crc8 (b1.setWidth 32) = c1 ∧ crc8 (b2.setWidth 32) = c2 ∧
          crc8 (b3.setWidth 32) = c3
      then some (b0 ++ b1 ++ b2 ++ b3) else none) ∧
  (∀ b0 b1 c0 b2 b3 c1 : Byte,
    parseSnac [b0, b1, c0, b2, b3, c1] =
      if crc8 ((b0 ++ b1).setWidth 32) = c0 ∧ crc8 ((b2 ++ b3).setWidth 32) = c1
      then some (b0 ++ b1, b2 ++ b3) else none) ∧
  (∀ b0 b1 c0 : Byte,
    (validMeas .t [b0, b1, c0] = true ↔
      b1.extractLsb' 0 2 = 0 ∧ crc8 ((b0 ++ b1).setWidth 32) = c0) ∧
    (validMeas .rh [b0, b1, c0] = true ↔
      b1.extractLsb' 0 2 = 2 ∧ crc8 ((b0 ++ b1).setWidth 32) = c0) ∧
    (b1.getLsbD 0 = true → ∀ kind, validMeas kind [b0, b1, c0] = false))

/-- BEGIN when nothing fails: its calls in order, a heater write only if the reset value has bit 2 set, the
mode flags, the identity, `BEGUN` (45_lifecycle R185). -/
def Obligations.BeginSucceeds : Prop :=
  ∀ (s : State) (hm : Bool) (b c : List Byte) (snb : Word32) (snc sna : Word16) (rest : List Reply),
    let v := s.params.uregResetValue
    s.busy = false → b.length = 8 → c.length = 6 → parseSnb b = some snb →
    parseSnac c = some (snc, sna) →
    s.replies = some (.ok []) :: some (.ok [v]) ::
      ((if v.getLsbD 2 then [some (.ok [])] else []) ++ some (.ok b) :: some (.ok c) :: rest) →
    exec (.begin hm) s = .next (ended (0x0100#16 ||| (BitVec.ofBool hm).setWidth 16) .none { s with
      replies := rest, begun := true, hold := hm, typ := false, ureg := v, uvalid := !v.getLsbD 2
      lastres := 0, sna := sna, snb := snb, snc := snc
      trace := s.trace ++
        [.setAddr 0x40, .send 0x00FE (.ok []), .delay s.params.resetSettleMs,
          .recv 0x00E7 1 (.ok [v])] ++
        (if v.getLsbD 2 then [.sendByte 0x00E6 (v &&& 0xFB) (.ok [])] else []) ++
        [.recv 0xFA0F 8 (.ok b), .recv 0xFCC9 6 (.ok c)]
      seq := { s.seq with frame := c, snbtmp := snb } })

/-- A BEGIN that fails before the serial-number read leaves `BEGUN = 0`, the mode flags and the identity as
they were (45_lifecycle R194, the first four rows). -/
def Obligations.BeginFailsEarly : Prop :=
  ∀ (s : State) (hm : Bool), s.busy = false →
    let v := s.params.uregResetValue
    let w := 0x0100#16 ||| (BitVec.ofBool hm).setWidth 16
    let opening : List Event :=
      [.setAddr 0x40, .send 0x00FE (.ok []), .delay s.params.resetSettleMs]
    (∀ a e rest, FailsWith a e → s.replies = some a :: rest →
      exec (.begin hm) s = .next (ended w .reset { s with
        replies := rest, begun := false, uvalid := false, lastres := e
        trace := s.trace ++ [.setAddr 0x40, .send 0x00FE a] })) ∧
    (∀ a e rest, FailsWith a e → s.replies = some (.ok []) :: some a :: rest →
      exec (.begin hm) s = .next (ended w .registerRead { s with
        replies := rest, begun := false, uvalid := false, lastres := e
        trace := s.trace ++ opening ++ [.recv 0x00E7 1 a] })) ∧
    (∀ u rest, u ≠ v → s.replies = some (.ok []) :: some (.ok [u]) :: rest →
      exec (.begin hm) s = .next (ended w .reset { s with
        replies := rest, begun := false, ureg := u, uvalid := true, lastres := 0
        trace := s.trace ++ opening ++ [.recv 0x00E7 1 (.ok [u])]
        seq := { s.seq with frame := [u] } })) ∧
    (∀ a e rest, v.getLsbD 2 = true → FailsWith a e →
      s.replies = some (.ok []) :: some (.ok [v]) :: some a :: rest →
      exec (.begin hm) s = .next (ended w .registerWrite { s with
        replies := rest, begun := false, ureg := v, uvalid := false, lastres := e
        trace := s.trace ++ opening ++ [.recv 0x00E7 1 (.ok [v]), .sendByte 0x00E6 (v &&& 0xFB) a]
        seq := { s.seq with frame := [v] } }))

/-- A BEGIN that fails in the serial-number read has written the mode flags and leaves `BEGUN = 0` and the
identity as it was; its trace goes as far as the read that failed, and `LASTRES` is the code of a failed
call, 0 after a failed check (45_lifecycle R194, the last two rows, 60_exceptions R208). -/
def Obligations.BeginFailsInSerialRead : Prop :=
  ∀ (s : State) (hm : Bool), s.busy = false →
    let v := s.params.uregResetValue
    let w := 0x0100#16 ||| (BitVec.ofBool hm).setWidth 16
    let toSerial : List Reply := some (.ok []) :: some (.ok [v]) ::
      (if v.getLsbD 2 then [some (.ok [])] else [])
    let opened : List Event := s.trace ++
      [.setAddr 0x40, .send 0x00FE (.ok []), .delay s.params.resetSettleMs, .recv 0x00E7 1 (.ok [v])] ++
      (if v.getLsbD 2 then [.sendByte 0x00E6 (v &&& 0xFB) (.ok [])] else [])
    let left : State := { s with
      begun := false, hold := hm, typ := false, ureg := v, uvalid := !v.getLsbD 2 }
    (∀ a e rest, FailsWith a e → s.replies = toSerial ++ some a :: rest →
      exec (.begin hm) s = .next (ended w .serialNumber { left with
        replies := rest, lastres := e, trace := opened ++ [.recv 0xFA0F 8 a]
        seq := { s.seq with frame := [v] } })) ∧
    (∀ (b : List Byte) rest, b.length = 8 → parseSnb b = none →
      s.replies = toSerial ++ some (.ok b) :: rest →
      exec (.begin hm) s = .next (ended w .serialNumber { left with
        replies := rest, lastres := 0, trace := opened ++ [.recv 0xFA0F 8 (.ok b)]
        seq := { s.seq with frame := b } })) ∧
    (∀ (b : List Byte) snb a e rest, b.length = 8 → parseSnb b = some snb → FailsWith a e →
      s.replies = toSerial ++ some (.ok b) :: some a :: rest →
      exec (.begin hm) s = .next (ended w .serialNumber { left with
        replies := rest, lastres := e
        trace := opened ++ [.recv 0xFA0F 8 (.ok b), .recv 0xFCC9 6 a]
        seq := { s.seq with frame := b, snbtmp := snb } })) ∧
    (∀ (b c : List Byte) snb rest, b.length = 8 → c.length = 6 → parseSnb b = some snb →
      parseSnac c = none → s.replies = toSerial ++ some (.ok b) :: some (.ok c) :: rest →
      exec (.begin hm) s = .next (ended w .serialNumber { left with
        replies := rest, lastres := 0
        trace := opened ++ [.recv 0xFA0F 8 (.ok b), .recv 0xFCC9 6 (.ok c)]
        seq := { s.seq with frame := c, snbtmp := snb } }))

/-! ### Measurements -/

/-- MEAS_T and MEAS_RH: after the entry's reload, up to two failing attempts and one good one, on the path
`HOLD` selects, with any number of polls, the result is the converted word without its status bits
(43_measurement R151, R155, R156). -/
def Obligations.MeasurementSucceeds : Prop :=
  ∀ (s : State) (u : Byte) (tried : List Attempt) (bytes : List Byte) (rest : List Reply),
    s.busy = false → s.begun = true → (s.uvalid = true → u = s.ureg) →
    s.replies = measureReplies s u tried ++ rest →
    (EndsWith .t s.hold tried bytes →
      exec .measT s = .next (ended 0x2000 .none { afterAttempts .t u tried s with
        replies := rest, result := toWord (convT (measWord bytes &&& 0xFFFC)) })) ∧
    (EndsWith .rh s.hold tried bytes →
      exec .measRh s = .next (ended 0x2100 .none { afterAttempts .rh u tried s with
        replies := rest, result := toWord (convRh (measWord bytes &&& 0xFFFC)) }))

/-- MEAS_RHC: temperature, then humidity, each with its own attempts; the result is the compensated
humidity (43_measurement R157, 44_converter R173). -/
def Obligations.MeasRhcSucceeds : Prop :=
  ∀ (s : State) (u : Byte) (triedT triedRh : List Attempt) (bytesT bytesRh : List Byte)
    (rest : List Reply),
    s.busy = false → s.begun = true → (s.uvalid = true → u = s.ureg) →
    EndsWith .t s.hold triedT bytesT → EndsWith .rh s.hold triedRh bytesRh →
    s.replies = measureReplies s u triedT ++ triedRh.flatMap attemptReplies ++ rest →
    let mid := afterAttempts .t u triedT s
    let latched : State := { mid with seq := { mid.seq with
      tlatch := toWord (convT (measWord bytesT &&& 0xFFFC)) } }
    exec .measRhc s = .next (ended 0x2200 .none { afterAttempts .rh u triedRh latched with
      replies := rest
      result := toWord (compensate s.params.tempCoef.toInt
        (convRh (measWord bytesRh &&& 0xFFFC)) (convT (measWord bytesT &&& 0xFFFC))) })

/-- Three failing attempts: the measurement ends with MeasurementError and the sentinel, after exactly the
calls of those attempts; `LASTRES` holds the code of the last call (43_measurement R150, R158,
60_exceptions R209). -/
def Obligations.MeasurementExhausted : Prop :=
  ∀ (s : State) (u : Byte) (tried : List Attempt) (rest : List Reply),
    s.busy = false → s.begun = true → (s.uvalid = true → u = s.ureg) → tried.length = 3 →
    s.replies = measureReplies s u tried ++ rest →
    (AllBad .t s.hold tried →
      exec .measT s = .next (ended 0x2000 .measurement { afterAttempts .t u tried s with
        replies := rest, result := 0x639C0000 }) ∧
      exec .measRhc s = .next (ended 0x2200 .measurement { afterAttempts .t u tried s with
        replies := rest, result := 0x639C0000 })) ∧
    (AllBad .rh s.hold tried →
      exec .measRh s = .next (ended 0x2100 .measurement { afterAttempts .rh u tried s with
        replies := rest, result := 0x639C0000 }))

/-- MEAS_RHC whose temperature is measured and whose humidity fails three times ends with
MeasurementError and the sentinel too, after the calls of both measurements (43_measurement R157). -/
def Obligations.MeasRhcHumidityExhausted : Prop :=
  ∀ (s : State) (u : Byte) (triedT triedRh : List Attempt) (bytesT : List Byte) (rest : List Reply),
    s.busy = false → s.begun = true → (s.uvalid = true → u = s.ureg) →
    EndsWith .t s.hold triedT bytesT → triedRh.length = 3 → AllBad .rh s.hold triedRh →
    s.replies = measureReplies s u triedT ++ triedRh.flatMap attemptReplies ++ rest →
    let mid := afterAttempts .t u triedT s
    let latched : State := { mid with seq := { mid.seq with
      tlatch := toWord (convT (measWord bytesT &&& 0xFFFC)) } }
    exec .measRhc s = .next (ended 0x2200 .measurement { afterAttempts .rh u triedRh latched with
      replies := rest, result := 0x639C0000 })

/-- A measurement whose entry cannot read the register ends with RegisterReadError and the sentinel, and
sends no measurement command (43_measurement R147, R158). -/
def Obligations.MeasurementEntryFails : Prop :=
  ∀ (s : State) (a : Answer) (e : Byte) (rest : List Reply),
    s.busy = false → s.begun = true → s.uvalid = false → FailsWith a e → s.replies = some a :: rest →
    let left (kind : Kind) : State := { s with
      replies := rest, lastres := e, result := 0x639C0000, trace := s.trace ++ [.recv 0x00E7 1 a]
      seq := { s.seq with kind := kind, att := 0 } }
    exec .measT s = .next (ended 0x2000 .registerRead (left .t)) ∧
    exec .measRh s = .next (ended 0x2100 .registerRead (left .rh)) ∧
    exec .measRhc s = .next (ended 0x2200 .registerRead (left .t))

/-- A measurement that was not ended by its entry made one send per attempt, one to three in all, three when
it failed, and no other send; MEAS_RHC did so for its temperature and, if that succeeded, for its humidity,
with `SEQ.ATT` the attempts of the last one (43_measurement R152, R157). -/
def Obligations.SendsCountAttempts : Prop :=
  ∀ s t : State, t.busy = false → t.err = .none ∨ t.err = .measurement →
    let sends (code : Word16) (n : Nat) : Prop := sendCount code t.trace = sendCount code s.trace + n
    let codeT := measureCode .t s.hold
    let codeRh := measureCode .rh s.hold
    (exec .measT s = .next t → 1 ≤ t.seq.att ∧ t.seq.att ≤ 3 ∧ sends codeT t.seq.att ∧
      (t.err = .measurement → t.seq.att = 3) ∧ ∀ code, code ≠ codeT → sends code 0) ∧
    (exec .measRh s = .next t → 1 ≤ t.seq.att ∧ t.seq.att ≤ 3 ∧ sends codeRh t.seq.att ∧
      (t.err = .measurement → t.seq.att = 3) ∧ ∀ code, code ≠ codeRh → sends code 0) ∧
    (exec .measRhc s = .next t → 1 ≤ t.seq.att ∧ t.seq.att ≤ 3 ∧
      (t.err = .measurement → t.seq.att = 3) ∧
      (∀ code, code ≠ codeT → code ≠ codeRh → sends code 0) ∧
      ((t.err = .measurement ∧ t.seq.kind = .t ∧ sends codeT 3 ∧ sends codeRh 0) ∨
        (∃ n, 1 ≤ n ∧ n ≤ 3 ∧ t.seq.kind = .rh ∧ sends codeT n ∧ sends codeRh t.seq.att)))

/-- A transport that answers `notReady` for ever keeps the block in the poll loop: after any number of
steps it is busy in the same attempt, having polled and slept that often (43_measurement R149,
70_reset R237). -/
def Obligations.PollsForever : Prop :=
  ∀ (s : State) (kind : Kind) (lines : List Micro) (e : Byte) (n : Nat),
    s.host = [] → s.busy = true → s.seq.phase = .attempts kind :: lines → s.seq.mst = .pollWait →
    s.replies = [] → s.after = some (.notReady e) → e ≠ 0 →
    Host.Core.run Sys2Proof.core n s = .next { s with
      lastres := if n = 0 then s.lastres else e
      trace := s.trace ++ (List.replicate n
        [Event.recv (measureCode kind s.hold) 3 (.notReady e), .delay s.seq.ct.toNat]).flatten }

/-! ### Wire commands, one transport call at a time -/

/-- W_READ_UREG at a reload: the byte goes to `UREG` and makes it valid, and the operation goes on; a
failure ends it (41_register_cache R111, 60_exceptions R206). -/
def Obligations.WireReadUreg : Prop :=
  ∀ (s : State) (lines : List Micro) (rest : List Reply),
    s.busy = true → s.uvalid = false → s.seq.phase = .reload :: lines →
    (∀ b, s.replies = some (.ok [b]) :: rest →
      exec .wReadUreg s = .next (runLines lines { s with
        replies := rest, ureg := b, uvalid := true, lastres := 0
        trace := s.trace ++ [.recv 0x00E7 1 (.ok [b])], seq := { s.seq with frame := [b] } })) ∧
    (∀ a e, FailsWith a e → s.replies = some a :: rest →
      exec .wReadUreg s = .next (raiseError .registerRead { s with
        replies := rest, lastres := e, trace := s.trace ++ [.recv 0x00E7 1 a] }))

/-- W_WRITE_UREG at any line that writes the register: `UVALID` is cleared whatever the answer, a failure
ends the operation (41_register_cache R113, 60_exceptions R207). -/
def Obligations.WireWriteUreg : Prop :=
  ∀ (s : State) (m : Micro) (lines : List Micro) (v : Byte) (rest : List Reply),
    s.busy = true → s.seq.phase = m :: lines →
    ((m = .writeArg ∧ v = s.seq.arg) ∨
      (∃ r1 r0, m = .changeResolution r1 r0 ∧ ¬ (s.ureg.getLsbD 7 = r1 ∧ s.ureg.getLsbD 0 = r0) ∧
        v = (s.ureg &&& 0x7E) ||| ((BitVec.ofBool r1).setWidth 8 <<< 7) |||
          (BitVec.ofBool r0).setWidth 8) ∨
      (∃ en, m = .changeHeater en ∧ s.ureg.getLsbD 2 ≠ en ∧
        v = (s.ureg &&& 0xFB) ||| ((BitVec.ofBool en).setWidth 8 <<< 2))) →
    (s.replies = some (.ok []) :: rest →
      exec .wWriteUreg s = .next (runLines lines { s with
        replies := rest, uvalid := false, lastres := 0
        trace := s.trace ++ [.sendByte 0x00E6 v (.ok [])] })) ∧
    (∀ a e, FailsWith a e → s.replies = some a :: rest →
      exec .wWriteUreg s = .next (raiseError .registerWrite { s with
        replies := rest, uvalid := false, lastres := e
        trace := s.trace ++ [.sendByte 0x00E6 v a] }))

/-- W_SOFT_RESET: the shadow is not trusted across it, sent or not; a failed send ends the operation
(45_lifecycle R187, 60_exceptions R205). -/
def Obligations.WireSoftReset : Prop :=
  ∀ (s : State) (lines : List Micro) (rest : List Reply),
    s.busy = true → s.seq.phase = .sendReset :: lines →
    (s.replies = some (.ok []) :: rest →
      exec .wSoftReset s = .next (runLines lines { s with
        replies := rest, uvalid := false, lastres := 0
        trace := s.trace ++ [.send 0x00FE (.ok [])] })) ∧
    (∀ a e, FailsWith a e → s.replies = some a :: rest →
      exec .wSoftReset s = .next (raiseError .reset { s with
        replies := rest, uvalid := false, lastres := e, trace := s.trace ++ [.send 0x00FE a] }))

/-- W_READ_SNB and W_READ_SNAC with frames whose checks pass: part B is kept aside, part A/C commits the
three fields at once; a failure, in the transport or in a check, ends the operation with SerialNumberError
and leaves the identity as it was (45_lifecycle R190, 60_exceptions R208). -/
def Obligations.WireReadSerial : Prop :=
  ∀ (s : State) (lines : List Micro) (rest : List Reply), s.busy = true →
    (s.seq.phase = .readSnb :: lines →
      (∀ b v, b.length = 8 → parseSnb b = some v → s.replies = some (.ok b) :: rest →
        exec .wReadSnb s = .next (runLines lines { s with
          replies := rest, lastres := 0, trace := s.trace ++ [.recv 0xFA0F 8 (.ok b)]
          seq := { s.seq with frame := b, snbtmp := v } })) ∧
      (∀ b, b.length = 8 → parseSnb b = none → s.replies = some (.ok b) :: rest →
        exec .wReadSnb s = .next (raiseError .serialNumber { s with
          replies := rest, lastres := 0, trace := s.trace ++ [.recv 0xFA0F 8 (.ok b)]
          seq := { s.seq with frame := b } })) ∧
      (∀ a e, FailsWith a e → s.replies = some a :: rest →
        exec .wReadSnb s = .next (raiseError .serialNumber { s with
          replies := rest, lastres := e, trace := s.trace ++ [.recv 0xFA0F 8 a] }))) ∧
    (s.seq.phase = .readSnac :: lines →
      (∀ b snc sna, b.length = 6 → parseSnac b = some (snc, sna) → s.replies = some (.ok b) :: rest →
        exec .wReadSnac s = .next (runLines lines { s with
          replies := rest, lastres := 0, sna := sna, snb := s.seq.snbtmp, snc := snc
          trace := s.trace ++ [.recv 0xFCC9 6 (.ok b)], seq := { s.seq with frame := b } })) ∧
      (∀ b, b.length = 6 → parseSnac b = none → s.replies = some (.ok b) :: rest →
        exec .wReadSnac s = .next (raiseError .serialNumber { s with
          replies := rest, lastres := 0, trace := s.trace ++ [.recv 0xFCC9 6 (.ok b)]
          seq := { s.seq with frame := b } })) ∧
      (∀ a e, FailsWith a e → s.replies = some a :: rest →
        exec .wReadSnac s = .next (raiseError .serialNumber { s with
          replies := rest, lastres := e, trace := s.trace ++ [.recv 0xFCC9 6 a] })))

/-- The four measurement commands, sent: the block goes to the hold wait or to the poll loop; a failed send
starts the next attempt or ends the measurement (43_measurement R144 rows 1 to 4). -/
def Obligations.WireMeasureSend : Prop :=
  ∀ (s : State) (kind : Kind) (lines : List Micro) (rest : List Reply),
    s.busy = true → s.seq.phase = .attempts kind :: lines →
    (s.seq.mst = .idle ∨ s.seq.mst = .retry) →
    (s.replies = some (.ok []) :: rest →
      exec (measureInstr kind s.hold) s = .next { s with
        replies := rest, lastres := 0
        trace := s.trace ++ [.send (measureCode kind s.hold) (.ok [])]
        seq := { s.seq with mst := if s.hold then .holdWait else .pollWait } }) ∧
    (∀ a e, FailsWith a e → s.replies = some a :: rest →
      let sent : State := { s with
        replies := rest, lastres := e
        trace := s.trace ++ [.send (measureCode kind s.hold) a] }
      (s.seq.att < 3 → exec (measureInstr kind s.hold) s = .next { sent with
        seq := { s.seq with mst := .retry, att := s.seq.att + 1 } }) ∧
      (3 ≤ s.seq.att → exec (measureInstr kind s.hold) s = .next (raiseError .measurement sent)))

/-- The four measurement commands, received with class `ok`: a valid frame ends the attempts and the
operation goes on, an invalid one starts the next attempt or ends the measurement
(43_measurement R144 rows 5, 8, 10 to 13). -/
def Obligations.WireMeasureFrame : Prop :=
  ∀ (s : State) (kind : Kind) (lines : List Micro) (bytes : List Byte) (rest : List Reply),
    s.busy = true → s.seq.phase = .attempts kind :: lines →
    (s.seq.mst = .holdWait ∨ s.seq.mst = .pollWait) → bytes.length = 3 →
    s.replies = some (.ok bytes) :: rest →
    let got : State := { s with
      replies := rest, lastres := 0
      trace := s.trace ++ [.recv (measureCode kind s.hold) 3 (.ok bytes)]
      seq := { s.seq with frame := bytes, word := measWord bytes } }
    (validMeas kind bytes = true →
      exec (measureInstr kind s.hold) s = .next (runLines lines { got with
        seq := { got.seq with mst := .idle } })) ∧
    (validMeas kind bytes = false → s.seq.att < 3 →
      exec (measureInstr kind s.hold) s = .next { got with
        seq := { got.seq with mst := .retry, att := s.seq.att + 1 } }) ∧
    (validMeas kind bytes = false → 3 ≤ s.seq.att →
      exec (measureInstr kind s.hold) s = .next (raiseError .measurement got))

/-- The four measurement commands, received with another class: in the poll loop `notReady` sleeps the
bound once and polls again; every other such answer fails the attempt
(43_measurement R144 rows 6, 7, 9). -/
def Obligations.WireMeasureNoFrame : Prop :=
  ∀ (s : State) (kind : Kind) (lines : List Micro) (a : Answer) (e : Byte) (rest : List Reply),
    s.busy = true → s.seq.phase = .attempts kind :: lines →
    FailsWith a e → s.replies = some a :: rest →
    let got : State := { s with
      replies := rest, lastres := e
      trace := s.trace ++ [.recv (measureCode kind s.hold) 3 a] }
    (s.seq.mst = .pollWait → a = .notReady e →
      exec (measureInstr kind s.hold) s = .next { got with
        trace := s.trace ++ [.recv (measureCode kind s.hold) 3 a, .delay s.seq.ct.toNat] }) ∧
    (s.seq.mst = .holdWait ∨ s.seq.mst = .pollWait ∧ a = .hardError e →
      (s.seq.att < 3 → exec (measureInstr kind s.hold) s = .next { got with
        seq := { s.seq with mst := .retry, att := s.seq.att + 1 } }) ∧
      (3 ≤ s.seq.att → exec (measureInstr kind s.hold) s = .next (raiseError .measurement got)))

/-- A call that has not returned changes nothing but the oracle; a wire command the block is not at is
refused (70_reset R237, 30_encoding R92). -/
def Obligations.WireWaitsOrRefused : Prop :=
  ∀ (s : State) (w : Wire),
    (∀ c, pendingCall s = some c → callWire c = w →
      (∀ rest, s.replies = none :: rest → exec w.instr s = .next { s with replies := rest }) ∧
      (s.replies = [] → s.after = none → exec w.instr s = .next s)) ∧
    ((∀ c, pendingCall s = some c → callWire c ≠ w) → exec w.instr s = .refused .wireOutOfTurn)

/-! ### The whole machine -/

/-- Every step keeps: an operation is in progress exactly while `BUSY = 1`, and a busy block is at a
transport call; the attempt counter stays in 0 to 3 and the frame buffer within 8 bytes
(10_state R20, R25). -/
def Obligations.StepKeepsSequencer : Prop :=
  ∀ s t : State, SeqInv s ∧ BoundsInv s → step s = .next t → SeqInv t ∧ BoundsInv t

/-- The block emits only the nine wire codes, each with its transport function and byte count, and the one
bus address (30_encoding R92). -/
def Obligations.StepKeepsTraceLegal : Prop :=
  ∀ s t : State, TraceInv s → step s = .next t → TraceInv t

/-- `UVALID = 1` exactly while the shadow is the byte of the latest register read, with no register write
and no reset command since (10_state R14, 20_memory R58). -/
def Obligations.StepKeepsShadowCoherent : Prop :=
  ∀ s t : State, ShadowInv s → step s = .next t → ShadowInv t

/-- `LASTRES` is the code of the latest send or receive, whatever operation made it (10_state R24). -/
def Obligations.StepKeepsLastresCurrent : Prop :=
  ∀ s t : State, LastresInv s → step s = .next t → LastresInv t

/-- No instruction writes the parameters, `PAYLOAD`, what the host does next, what it last read, or the
final answer of the oracle; and the trace only grows (10_state R17, R27). -/
def Obligations.InstructionsLeaveInputs : Prop :=
  ∀ (i : Instr) (s t : State), exec i s = .next t →
    t.params = s.params ∧ t.payload = s.payload ∧ t.host = s.host ∧ t.after = s.after ∧
    t.readData = s.readData ∧ t.freeReads = s.freeReads ∧ s.trace <+: t.trace

/-- Only BEGIN and RDSN, and the second serial read inside them, change the identity; a host operation leaves
it as it was, or takes it whole from two received frames all of whose CRC checks passed
(10_state R13, 70_reset R232). -/
def Obligations.IdentityAllOrNothing : Prop :=
  (∀ (i : Instr) (s t : State), exec i s = .next t → i ≠ .rdsn → (∀ hm, i ≠ .begin hm) →
    i ≠ .wReadSnac → t.sna = s.sna ∧ t.snb = s.snb ∧ t.snc = s.snc) ∧
  (∀ (i : Instr) (s t : State), wireOf i = none → exec i s = .next t →
    (t.sna = s.sna ∧ t.snb = s.snb ∧ t.snc = s.snc) ∨
    (∃ b c, Event.recv 0xFA0F 8 (.ok b) ∈ t.trace ∧ Event.recv 0xFCC9 6 (.ok c) ∈ t.trace ∧
      parseSnb b = some t.snb ∧ parseSnac c = some (t.snc, t.sna)))

/-- Which code each host operation can end with; BEGIN with RegisterWriteError only if the reset value has
bit 2 set; NotBegun exactly when `BEGUN` is needed and 0 (60_exceptions R222, R212). -/
def Obligations.EndCodesByOperation : Prop :=
  ∀ (i : Instr) (s t : State), wireOf i = none → exec i s = .next t → t.busy = false →
    t.err ∈ endCodes i ∧ (t.err = .notBegun ↔ needsBegun i = true ∧ s.begun = false) ∧
    (∀ hm, i = .begin hm → t.err = .registerWrite → s.params.uregResetValue.getLsbD 2 = true)

/-- `BEGUN` is 1 after a BEGIN exactly when it ended with success, and no other host operation changes it
(10_state R21); only BEGIN and SETHOLD write `HOLD`, only BEGIN and SETTYP write `TYP` (10_state R18). -/
def Obligations.ModesWrittenOnlyByTheirOperations : Prop :=
  ∀ (i : Instr) (s t : State), wireOf i = none → exec i s = .next t →
    ((∀ hm, i ≠ .begin hm) → t.begun = s.begun ∧ ((∀ hm, i ≠ .sethold hm) → t.hold = s.hold) ∧
      ((∀ b, i ≠ .settyp b) → t.typ = s.typ)) ∧
    (∀ hm, i = .begin hm → (t.begun = true ↔ t.busy = false ∧ t.err = .none))

/-- An operation run as one big step reaches the state that its start and then one transport call per step
reach: both grains give the same machine (00_scope R8). -/
def Obligations.BigStepEqualsSmallSteps : Prop :=
  ∀ (i : Instr) (s t : State), wireOf i = none → exec i s = .next t →
    ∃ t0 n, exec i { s with replies := [] } = .next t0 ∧ n ≤ s.replies.length ∧
      Host.Core.run Sys2Proof.core n { t0 with replies := s.replies, host := [] } =
        .next { t with host := [] }
end

