-- ==== Sys2Proof/Laws/State.lean ====
section
/-! SUPPORT. What each named update does to each field of the state. -/

namespace Sys2Proof.Machine

section accept
variable (w : Word16) (s : State)

@[simp] theorem accept_params : (accept w s).params = s.params := rfl
@[simp] theorem accept_cmd : (accept w s).cmd = w := rfl
@[simp] theorem accept_payload : (accept w s).payload = s.payload := rfl
@[simp] theorem accept_busy : (accept w s).busy = true := rfl
@[simp] theorem accept_begun : (accept w s).begun = s.begun := rfl
@[simp] theorem accept_uvalid : (accept w s).uvalid = s.uvalid := rfl
@[simp] theorem accept_hold : (accept w s).hold = s.hold := rfl
@[simp] theorem accept_typ : (accept w s).typ = s.typ := rfl
@[simp] theorem accept_err : (accept w s).err = s.err := rfl
@[simp] theorem accept_result : (accept w s).result = s.result := rfl
@[simp] theorem accept_ureg : (accept w s).ureg = s.ureg := rfl
@[simp] theorem accept_sna : (accept w s).sna = s.sna := rfl
@[simp] theorem accept_snb : (accept w s).snb = s.snb := rfl
@[simp] theorem accept_snc : (accept w s).snc = s.snc := rfl
@[simp] theorem accept_lastres : (accept w s).lastres = s.lastres := rfl
@[simp] theorem accept_host : (accept w s).host = s.host := rfl
@[simp] theorem accept_replies : (accept w s).replies = s.replies := rfl
@[simp] theorem accept_after : (accept w s).after = s.after := rfl
@[simp] theorem accept_trace : (accept w s).trace = s.trace := rfl
@[simp] theorem accept_readData : (accept w s).readData = s.readData := rfl
@[simp] theorem accept_freeReads : (accept w s).freeReads = s.freeReads := rfl
@[simp] theorem accept_seq_op : (accept w s).seq.op = some (opOf w) := rfl
@[simp] theorem accept_seq_arg : (accept w s).seq.arg = argOf w := rfl
@[simp] theorem accept_seq_mst : (accept w s).seq.mst = s.seq.mst := rfl
@[simp] theorem accept_seq_kind : (accept w s).seq.kind = s.seq.kind := rfl
@[simp] theorem accept_seq_att : (accept w s).seq.att = s.seq.att := rfl
@[simp] theorem accept_seq_ct : (accept w s).seq.ct = s.seq.ct := rfl
@[simp] theorem accept_seq_frame : (accept w s).seq.frame = s.seq.frame := rfl
@[simp] theorem accept_seq_word : (accept w s).seq.word = s.seq.word := rfl
@[simp] theorem accept_seq_tlatch : (accept w s).seq.tlatch = s.seq.tlatch := rfl
@[simp] theorem accept_seq_snbtmp : (accept w s).seq.snbtmp = s.seq.snbtmp := rfl
@[simp] theorem accept_seq_phase : (accept w s).seq.phase = s.seq.phase := rfl

end accept

section finish
variable (k : ErrKind) (s : State)

@[simp] theorem finish_params : (finish k s).params = s.params := rfl
@[simp] theorem finish_cmd : (finish k s).cmd = s.cmd := rfl
@[simp] theorem finish_payload : (finish k s).payload = s.payload := rfl
@[simp] theorem finish_busy : (finish k s).busy = false := rfl
@[simp] theorem finish_begun : (finish k s).begun = s.begun := rfl
@[simp] theorem finish_uvalid : (finish k s).uvalid = s.uvalid := rfl
@[simp] theorem finish_hold : (finish k s).hold = s.hold := rfl
@[simp] theorem finish_typ : (finish k s).typ = s.typ := rfl
@[simp] theorem finish_err : (finish k s).err = k := rfl
@[simp] theorem finish_result : (finish k s).result = s.result := rfl
@[simp] theorem finish_ureg : (finish k s).ureg = s.ureg := rfl
@[simp] theorem finish_sna : (finish k s).sna = s.sna := rfl
@[simp] theorem finish_snb : (finish k s).snb = s.snb := rfl
@[simp] theorem finish_snc : (finish k s).snc = s.snc := rfl
@[simp] theorem finish_lastres : (finish k s).lastres = s.lastres := rfl
@[simp] theorem finish_host : (finish k s).host = s.host := rfl
@[simp] theorem finish_replies : (finish k s).replies = s.replies := rfl
@[simp] theorem finish_after : (finish k s).after = s.after := rfl
@[simp] theorem finish_trace : (finish k s).trace = s.trace := rfl
@[simp] theorem finish_readData : (finish k s).readData = s.readData := rfl
@[simp] theorem finish_freeReads : (finish k s).freeReads = s.freeReads := rfl
@[simp] theorem finish_seq_op : (finish k s).seq.op = none := rfl
@[simp] theorem finish_seq_arg : (finish k s).seq.arg = s.seq.arg := rfl
@[simp] theorem finish_seq_mst : (finish k s).seq.mst = .idle := rfl
@[simp] theorem finish_seq_kind : (finish k s).seq.kind = s.seq.kind := rfl
@[simp] theorem finish_seq_att : (finish k s).seq.att = s.seq.att := rfl
@[simp] theorem finish_seq_ct : (finish k s).seq.ct = s.seq.ct := rfl
@[simp] theorem finish_seq_frame : (finish k s).seq.frame = s.seq.frame := rfl
@[simp] theorem finish_seq_word : (finish k s).seq.word = s.seq.word := rfl
@[simp] theorem finish_seq_tlatch : (finish k s).seq.tlatch = s.seq.tlatch := rfl
@[simp] theorem finish_seq_snbtmp : (finish k s).seq.snbtmp = s.seq.snbtmp := rfl
@[simp] theorem finish_seq_phase : (finish k s).seq.phase = [] := rfl

end finish

section raiseError
variable (k : ErrKind) (s : State)

@[simp] theorem raiseError_params : (raiseError k s).params = s.params := rfl
@[simp] theorem raiseError_cmd : (raiseError k s).cmd = s.cmd := rfl
@[simp] theorem raiseError_payload : (raiseError k s).payload = s.payload := rfl
@[simp] theorem raiseError_busy : (raiseError k s).busy = false := rfl
@[simp] theorem raiseError_begun : (raiseError k s).begun = s.begun := rfl
@[simp] theorem raiseError_uvalid : (raiseError k s).uvalid = s.uvalid := rfl
@[simp] theorem raiseError_hold : (raiseError k s).hold = s.hold := rfl
@[simp] theorem raiseError_typ : (raiseError k s).typ = s.typ := rfl
@[simp] theorem raiseError_err : (raiseError k s).err = k := rfl
@[simp] theorem raiseError_result : (raiseError k s).result = failureOutput s.seq.op s.result := rfl
@[simp] theorem raiseError_ureg : (raiseError k s).ureg = s.ureg := rfl
@[simp] theorem raiseError_sna : (raiseError k s).sna = s.sna := rfl
@[simp] theorem raiseError_snb : (raiseError k s).snb = s.snb := rfl
@[simp] theorem raiseError_snc : (raiseError k s).snc = s.snc := rfl
@[simp] theorem raiseError_lastres : (raiseError k s).lastres = s.lastres := rfl
@[simp] theorem raiseError_host : (raiseError k s).host = s.host := rfl
@[simp] theorem raiseError_replies : (raiseError k s).replies = s.replies := rfl
@[simp] theorem raiseError_after : (raiseError k s).after = s.after := rfl
@[simp] theorem raiseError_trace : (raiseError k s).trace = s.trace := rfl
@[simp] theorem raiseError_readData : (raiseError k s).readData = s.readData := rfl
@[simp] theorem raiseError_freeReads : (raiseError k s).freeReads = s.freeReads := rfl
@[simp] theorem raiseError_seq_op : (raiseError k s).seq.op = none := rfl
@[simp] theorem raiseError_seq_arg : (raiseError k s).seq.arg = s.seq.arg := rfl
@[simp] theorem raiseError_seq_mst : (raiseError k s).seq.mst = .idle := rfl
@[simp] theorem raiseError_seq_kind : (raiseError k s).seq.kind = s.seq.kind := rfl
@[simp] theorem raiseError_seq_att : (raiseError k s).seq.att = s.seq.att := rfl
@[simp] theorem raiseError_seq_ct : (raiseError k s).seq.ct = s.seq.ct := rfl
@[simp] theorem raiseError_seq_frame : (raiseError k s).seq.frame = s.seq.frame := rfl
@[simp] theorem raiseError_seq_word : (raiseError k s).seq.word = s.seq.word := rfl
@[simp] theorem raiseError_seq_tlatch : (raiseError k s).seq.tlatch = s.seq.tlatch := rfl
@[simp] theorem raiseError_seq_snbtmp : (raiseError k s).seq.snbtmp = s.seq.snbtmp := rfl
@[simp] theorem raiseError_seq_phase : (raiseError k s).seq.phase = [] := rfl

end raiseError

section emit
variable (e : Event) (s : State)

@[simp] theorem emit_params : (emit e s).params = s.params := rfl
@[simp] theorem emit_cmd : (emit e s).cmd = s.cmd := rfl
@[simp] theorem emit_payload : (emit e s).payload = s.payload := rfl
@[simp] theorem emit_busy : (emit e s).busy = s.busy := rfl
@[simp] theorem emit_begun : (emit e s).begun = s.begun := rfl
@[simp] theorem emit_uvalid : (emit e s).uvalid = s.uvalid := rfl
@[simp] theorem emit_hold : (emit e s).hold = s.hold := rfl
@[simp] theorem emit_typ : (emit e s).typ = s.typ := rfl
@[simp] theorem emit_err : (emit e s).err = s.err := rfl
@[simp] theorem emit_result : (emit e s).result = s.result := rfl
@[simp] theorem emit_ureg : (emit e s).ureg = s.ureg := rfl
@[simp] theorem emit_sna : (emit e s).sna = s.sna := rfl
@[simp] theorem emit_snb : (emit e s).snb = s.snb := rfl
@[simp] theorem emit_snc : (emit e s).snc = s.snc := rfl
@[simp] theorem emit_lastres : (emit e s).lastres = s.lastres := rfl
@[simp] theorem emit_host : (emit e s).host = s.host := rfl
@[simp] theorem emit_replies : (emit e s).replies = s.replies := rfl
@[simp] theorem emit_after : (emit e s).after = s.after := rfl
@[simp] theorem emit_trace : (emit e s).trace = s.trace ++ [e] := rfl
@[simp] theorem emit_readData : (emit e s).readData = s.readData := rfl
@[simp] theorem emit_freeReads : (emit e s).freeReads = s.freeReads := rfl
@[simp] theorem emit_seq_op : (emit e s).seq.op = s.seq.op := rfl
@[simp] theorem emit_seq_arg : (emit e s).seq.arg = s.seq.arg := rfl
@[simp] theorem emit_seq_mst : (emit e s).seq.mst = s.seq.mst := rfl
@[simp] theorem emit_seq_kind : (emit e s).seq.kind = s.seq.kind := rfl
@[simp] theorem emit_seq_att : (emit e s).seq.att = s.seq.att := rfl
@[simp] theorem emit_seq_ct : (emit e s).seq.ct = s.seq.ct := rfl
@[simp] theorem emit_seq_frame : (emit e s).seq.frame = s.seq.frame := rfl
@[simp] theorem emit_seq_word : (emit e s).seq.word = s.seq.word := rfl
@[simp] theorem emit_seq_tlatch : (emit e s).seq.tlatch = s.seq.tlatch := rfl
@[simp] theorem emit_seq_snbtmp : (emit e s).seq.snbtmp = s.seq.snbtmp := rfl
@[simp] theorem emit_seq_phase : (emit e s).seq.phase = s.seq.phase := rfl

end emit

section putResult
variable (v : Word32) (s : State)

@[simp] theorem putResult_params : (putResult v s).params = s.params := rfl
@[simp] theorem putResult_cmd : (putResult v s).cmd = s.cmd := rfl
@[simp] theorem putResult_payload : (putResult v s).payload = s.payload := rfl
@[simp] theorem putResult_busy : (putResult v s).busy = s.busy := rfl
@[simp] theorem putResult_begun : (putResult v s).begun = s.begun := rfl
@[simp] theorem putResult_uvalid : (putResult v s).uvalid = s.uvalid := rfl
@[simp] theorem putResult_hold : (putResult v s).hold = s.hold := rfl
@[simp] theorem putResult_typ : (putResult v s).typ = s.typ := rfl
@[simp] theorem putResult_err : (putResult v s).err = s.err := rfl
@[simp] theorem putResult_result : (putResult v s).result = v := rfl
@[simp] theorem putResult_ureg : (putResult v s).ureg = s.ureg := rfl
@[simp] theorem putResult_sna : (putResult v s).sna = s.sna := rfl
@[simp] theorem putResult_snb : (putResult v s).snb = s.snb := rfl
@[simp] theorem putResult_snc : (putResult v s).snc = s.snc := rfl
@[simp] theorem putResult_lastres : (putResult v s).lastres = s.lastres := rfl
@[simp] theorem putResult_host : (putResult v s).host = s.host := rfl
@[simp] theorem putResult_replies : (putResult v s).replies = s.replies := rfl
@[simp] theorem putResult_after : (putResult v s).after = s.after := rfl
@[simp] theorem putResult_trace : (putResult v s).trace = s.trace := rfl
@[simp] theorem putResult_readData : (putResult v s).readData = s.readData := rfl
@[simp] theorem putResult_freeReads : (putResult v s).freeReads = s.freeReads := rfl
@[simp] theorem putResult_seq_op : (putResult v s).seq.op = s.seq.op := rfl
@[simp] theorem putResult_seq_arg : (putResult v s).seq.arg = s.seq.arg := rfl
@[simp] theorem putResult_seq_mst : (putResult v s).seq.mst = s.seq.mst := rfl
@[simp] theorem putResult_seq_kind : (putResult v s).seq.kind = s.seq.kind := rfl
@[simp] theorem putResult_seq_att : (putResult v s).seq.att = s.seq.att := rfl
@[simp] theorem putResult_seq_ct : (putResult v s).seq.ct = s.seq.ct := rfl
@[simp] theorem putResult_seq_frame : (putResult v s).seq.frame = s.seq.frame := rfl
@[simp] theorem putResult_seq_word : (putResult v s).seq.word = s.seq.word := rfl
@[simp] theorem putResult_seq_tlatch : (putResult v s).seq.tlatch = s.seq.tlatch := rfl
@[simp] theorem putResult_seq_snbtmp : (putResult v s).seq.snbtmp = s.seq.snbtmp := rfl
@[simp] theorem putResult_seq_phase : (putResult v s).seq.phase = s.seq.phase := rfl

end putResult

section setMst
variable (m : MeasState) (s : State)

@[simp] theorem setMst_params : (setMst m s).params = s.params := rfl
@[simp] theorem setMst_cmd : (setMst m s).cmd = s.cmd := rfl
@[simp] theorem setMst_payload : (setMst m s).payload = s.payload := rfl
@[simp] theorem setMst_busy : (setMst m s).busy = s.busy := rfl
@[simp] theorem setMst_begun : (setMst m s).begun = s.begun := rfl
@[simp] theorem setMst_uvalid : (setMst m s).uvalid = s.uvalid := rfl
@[simp] theorem setMst_hold : (setMst m s).hold = s.hold := rfl
@[simp] theorem setMst_typ : (setMst m s).typ = s.typ := rfl
@[simp] theorem setMst_err : (setMst m s).err = s.err := rfl
@[simp] theorem setMst_result : (setMst m s).result = s.result := rfl
@[simp] theorem setMst_ureg : (setMst m s).ureg = s.ureg := rfl
@[simp] theorem setMst_sna : (setMst m s).sna = s.sna := rfl
@[simp] theorem setMst_snb : (setMst m s).snb = s.snb := rfl
@[simp] theorem setMst_snc : (setMst m s).snc = s.snc := rfl
@[simp] theorem setMst_lastres : (setMst m s).lastres = s.lastres := rfl
@[simp] theorem setMst_host : (setMst m s).host = s.host := rfl
@[simp] theorem setMst_replies : (setMst m s).replies = s.replies := rfl
@[simp] theorem setMst_after : (setMst m s).after = s.after := rfl
@[simp] theorem setMst_trace : (setMst m s).trace = s.trace := rfl
@[simp] theorem setMst_readData : (setMst m s).readData = s.readData := rfl
@[simp] theorem setMst_freeReads : (setMst m s).freeReads = s.freeReads := rfl
@[simp] theorem setMst_seq_op : (setMst m s).seq.op = s.seq.op := rfl
@[simp] theorem setMst_seq_arg : (setMst m s).seq.arg = s.seq.arg := rfl
@[simp] theorem setMst_seq_mst : (setMst m s).seq.mst = m := rfl
@[simp] theorem setMst_seq_kind : (setMst m s).seq.kind = s.seq.kind := rfl
@[simp] theorem setMst_seq_att : (setMst m s).seq.att = s.seq.att := rfl
@[simp] theorem setMst_seq_ct : (setMst m s).seq.ct = s.seq.ct := rfl
@[simp] theorem setMst_seq_frame : (setMst m s).seq.frame = s.seq.frame := rfl
@[simp] theorem setMst_seq_word : (setMst m s).seq.word = s.seq.word := rfl
@[simp] theorem setMst_seq_tlatch : (setMst m s).seq.tlatch = s.seq.tlatch := rfl
@[simp] theorem setMst_seq_snbtmp : (setMst m s).seq.snbtmp = s.seq.snbtmp := rfl
@[simp] theorem setMst_seq_phase : (setMst m s).seq.phase = s.seq.phase := rfl

end setMst

/-- The frame buffer after an answered call: an `ok` receive fills it (20_memory R43). -/
def heardFrame (c : Call) (a : Answer) (frame : List Byte) : List Byte :=
  match c, a with
  | .recv _ _, .ok bytes => bytes
  | _, _ => frame

section heard
variable (c : Call) (a : Answer) (s : State)

@[simp] theorem heard_params : (heard c a s).params = s.params := by cases c <;> cases a <;> rfl
@[simp] theorem heard_cmd : (heard c a s).cmd = s.cmd := by cases c <;> cases a <;> rfl
@[simp] theorem heard_payload : (heard c a s).payload = s.payload := by cases c <;> cases a <;> rfl
@[simp] theorem heard_busy : (heard c a s).busy = s.busy := by cases c <;> cases a <;> rfl
@[simp] theorem heard_begun : (heard c a s).begun = s.begun := by cases c <;> cases a <;> rfl
@[simp] theorem heard_uvalid : (heard c a s).uvalid = s.uvalid := by cases c <;> cases a <;> rfl
@[simp] theorem heard_hold : (heard c a s).hold = s.hold := by cases c <;> cases a <;> rfl
@[simp] theorem heard_typ : (heard c a s).typ = s.typ := by cases c <;> cases a <;> rfl
@[simp] theorem heard_err : (heard c a s).err = s.err := by cases c <;> cases a <;> rfl
@[simp] theorem heard_result : (heard c a s).result = s.result := by cases c <;> cases a <;> rfl
@[simp] theorem heard_ureg : (heard c a s).ureg = s.ureg := by cases c <;> cases a <;> rfl
@[simp] theorem heard_sna : (heard c a s).sna = s.sna := by cases c <;> cases a <;> rfl
@[simp] theorem heard_snb : (heard c a s).snb = s.snb := by cases c <;> cases a <;> rfl
@[simp] theorem heard_snc : (heard c a s).snc = s.snc := by cases c <;> cases a <;> rfl
@[simp] theorem heard_lastres : (heard c a s).lastres = answerCode a := by cases c <;> cases a <;> rfl
@[simp] theorem heard_host : (heard c a s).host = s.host := by cases c <;> cases a <;> rfl
@[simp] theorem heard_replies : (heard c a s).replies = s.replies := by cases c <;> cases a <;> rfl
@[simp] theorem heard_after : (heard c a s).after = s.after := by cases c <;> cases a <;> rfl
@[simp] theorem heard_trace : (heard c a s).trace = s.trace ++ [callEvent c a] := by cases c <;> cases a <;> rfl
@[simp] theorem heard_readData : (heard c a s).readData = s.readData := by cases c <;> cases a <;> rfl
@[simp] theorem heard_freeReads : (heard c a s).freeReads = s.freeReads := by cases c <;> cases a <;> rfl
@[simp] theorem heard_seq_op : (heard c a s).seq.op = s.seq.op := by cases c <;> cases a <;> rfl
@[simp] theorem heard_seq_arg : (heard c a s).seq.arg = s.seq.arg := by cases c <;> cases a <;> rfl
@[simp] theorem heard_seq_mst : (heard c a s).seq.mst = s.seq.mst := by cases c <;> cases a <;> rfl
@[simp] theorem heard_seq_kind : (heard c a s).seq.kind = s.seq.kind := by cases c <;> cases a <;> rfl
@[simp] theorem heard_seq_att : (heard c a s).seq.att = s.seq.att := by cases c <;> cases a <;> rfl
@[simp] theorem heard_seq_ct : (heard c a s).seq.ct = s.seq.ct := by cases c <;> cases a <;> rfl
@[simp] theorem heard_seq_frame : (heard c a s).seq.frame = heardFrame c a s.seq.frame := by cases c <;> cases a <;> rfl
@[simp] theorem heard_seq_word : (heard c a s).seq.word = s.seq.word := by cases c <;> cases a <;> rfl
@[simp] theorem heard_seq_tlatch : (heard c a s).seq.tlatch = s.seq.tlatch := by cases c <;> cases a <;> rfl
@[simp] theorem heard_seq_snbtmp : (heard c a s).seq.snbtmp = s.seq.snbtmp := by cases c <;> cases a <;> rfl
@[simp] theorem heard_seq_phase : (heard c a s).seq.phase = s.seq.phase := by cases c <;> cases a <;> rfl

end heard

end Sys2Proof.Machine
end

