-- ==== Sys2Proof/Laws/Ops.lean ====
section
/-! SUPPORT. For each shared operation, once, what it can do. -/

namespace Sys2Proof.Machine

/-! ### The transport's answers -/

@[simp] theorem exactBytes_length (n : Nat) (bytes : List Byte) : (exactBytes n bytes).length = n := by
  simp [exactBytes]

/-- A list that has the bytes asked for is delivered as it is. -/
theorem exactBytes_of_length {n : Nat} {bytes : List Byte} (h : bytes.length = n) :
    exactBytes n bytes = bytes := by
  subst h; simp [exactBytes]

theorem failCode_ne_zero (e : Byte) : failCode e ≠ 0 := by
  unfold failCode; split <;> simp_all

theorem failCode_of_ne_zero {e : Byte} (h : e ≠ 0) : failCode e = e := if_neg h

/-- What is delivered is an answer the contract allows. -/
theorem deliver_legal (n : Nat) (a : Answer) : answerLegal n (deliver n a) = true := by
  cases a with
  | ok bytes => simp [deliver, answerLegal]
  | notReady e => exact bne_iff_ne.mpr (failCode_ne_zero e)
  | hardError e => exact bne_iff_ne.mpr (failCode_ne_zero e)

/-- An answer the contract allows is delivered as it is. -/
theorem deliver_of_legal {n : Nat} {a : Answer} (h : answerLegal n a = true) : deliver n a = a := by
  cases a with
  | ok bytes => simp [deliver, exactBytes_of_length (beq_iff_eq.mp h)]
  | notReady e => simp [deliver, failCode_of_ne_zero (bne_iff_ne.mp h)]
  | hardError e => simp [deliver, failCode_of_ne_zero (bne_iff_ne.mp h)]

/-- A failing answer is delivered as it is, whatever was asked for. -/
theorem deliver_of_failsWith {a : Answer} {e : Byte} (n : Nat) (h : FailsWith a e) :
    deliver n a = a ∧ answerCode a = e ∧ ∀ bytes, a ≠ .ok bytes := by
  obtain ⟨rfl | rfl, he⟩ := h <;> simp [deliver, answerCode, failCode_of_ne_zero he]

/-! ### Lines of pseudocode -/

/-- A line that waits is at a transport call, in the state it waits in. -/
theorem startLine_wait {m : Micro} {s t : State} (h : startLine m s = .wait t) :
    ∃ c, callOf m t = some c := by
  cases m <;> simp only [startLine, reduceCtorEq, Progress.wait.injEq] at h
  case reload => split at h <;> simp_all [callOf]
  case changeResolution => split at h <;> simp_all [callOf]
  case changeHeater => split at h <;> simp_all [callOf]
  case checkReset => split at h <;> simp at h
  case attempts k =>
    subst h; simp only [callOf]; split <;> exact ⟨_, rfl⟩
  all_goals subst h; exact ⟨_, rfl⟩

/-- A line at which the block still waits after an answer is a measurement's. -/
theorem answerLine_wait {m : Micro} {a : Answer} {s t : State} (h : answerLine m a s = .wait t) :
    ∃ kind, m = .attempts kind := by
  cases m <;> simp only [answerLine, writeAnswer, reduceCtorEq] at h <;>
    first
      | exact ⟨_, rfl⟩
      | (exfalso; revert h; (repeat' split) <;> simp)

/-- A measurement is always at a transport call. -/
theorem callOf_attempts (kind : Kind) (s : State) : ∃ c, callOf (.attempts kind) s = some c := by
  simp only [callOf]; split <;> exact ⟨_, rfl⟩

/-- Which call a line makes does not depend on where the sequencer stands. -/
@[simp] theorem callOf_phase (m : Micro) (s : State) (ms : List Micro) :
    callOf m { s with seq := { s.seq with phase := ms } } = callOf m s := by
  cases m <;> rfl

theorem runLines_nil (s : State) : runLines [] s = complete s := rfl

theorem runLines_done {m : Micro} {rest : List Micro} {s t : State} (h : startLine m s = .done t) :
    runLines (m :: rest) s = runLines rest t := by simp [runLines, h]

theorem runLines_wait {m : Micro} {rest : List Micro} {s t : State} (h : startLine m s = .wait t) :
    runLines (m :: rest) s = { t with seq := { t.seq with phase := m :: rest } } := by
  simp [runLines, h]

theorem runLines_raised {m : Micro} {rest : List Micro} {k : ErrKind} {s t : State}
    (h : startLine m s = .raised k t) : runLines (m :: rest) s = raiseError k t := by
  simp [runLines, h]

/-! ### The call the block is at -/

/-- When the block is at a call: an operation is in progress and its first line makes that call. -/
theorem pendingLine_eq_some {s : State} {c : Call} {m : Micro} {rest : List Micro} :
    pendingLine s = some (c, m, rest) ↔
      s.busy = true ∧ s.seq.phase = m :: rest ∧ callOf m s = some c := by
  unfold pendingLine
  split
  · rename_i m' rest' hb hp
    cases hc : callOf m' s <;> simp [hb, hp]
    · rintro rfl rfl; simp [hc]
    · constructor
      · rintro ⟨rfl, rfl, rfl⟩; exact ⟨⟨rfl, rfl⟩, hc⟩
      · rintro ⟨⟨rfl, rfl⟩, h⟩; simp_all
  · rename_i h
    simp only [reduceCtorEq, false_iff, not_and]
    intro hb hp; exact absurd hp (h m rest hb)

theorem pendingCall_eq_some {s : State} {c : Call} :
    pendingCall s = some c ↔
      s.busy = true ∧ ∃ m rest, s.seq.phase = m :: rest ∧ callOf m s = some c := by
  unfold pendingCall
  constructor
  · intro h
    obtain ⟨⟨c', m, rest⟩, hp, rfl⟩ := Option.map_eq_some_iff.mp h
    obtain ⟨hb, hph, hc⟩ := pendingLine_eq_some.mp hp
    exact ⟨hb, m, rest, hph, hc⟩
  · rintro ⟨hb, m, rest, hph, hc⟩
    rw [pendingLine_eq_some.mpr ⟨hb, hph, hc⟩]; rfl

/-- One call that returns, where the block is at the line `m`. -/
theorem respond_of_line {s : State} {m : Micro} {rest : List Micro} {c : Call} (a : Answer)
    (hb : s.busy = true) (hp : s.seq.phase = m :: rest) (hc : callOf m s = some c) :
    respond a s =
      afterLine m rest (answerLine m (deliver (callCount c) a) (heard c (deliver (callCount c) a) s)) := by
  simp only [respond, pendingLine_eq_some.mpr ⟨hb, hp, hc⟩]

/-! ### Running as far as the answers go -/

@[simp] theorem drain_nil (s : State) : drain [] s = s := rfl

/-- An operation that has ended takes no answer. -/
theorem drain_idle {s : State} (h : s.busy = false) (rs : List Reply) : drain rs s = s := by
  cases rs with
  | nil => rfl
  | cons r rest => cases r <;> simp [drain, h]

theorem drain_blocked {s : State} (h : s.busy = true) (rest : List Reply) :
    drain (none :: rest) s = { s with replies := rest } := by simp [drain, h]

theorem drain_answer {s : State} (h : s.busy = true) (a : Answer) (rest : List Reply) :
    drain (some a :: rest) s = drain rest (respond a { s with replies := rest }) := by
  simp [drain, h]

/-! ### Host operations and wire commands -/

theorem hostOp_busy {s : State} (h : s.busy = true) (i : Instr) (nb : Bool) (lines : List Micro) :
    hostOp i nb lines s = .refused .hostWriteWhileBusy := by simp [hostOp, h]

theorem hostOp_notBegun {s : State} (h : s.busy = false) (hb : s.begun = false) (i : Instr)
    (lines : List Micro) :
    hostOp i true lines s = .next (finish .notBegun (accept (encode i) s)) := by
  simp [hostOp, h, hb]

/-- An operation that runs: its precondition holds. -/
theorem hostOp_runs {s : State} {nb : Bool} (h : s.busy = false) (hb : nb = true → s.begun = true)
    (i : Instr) (lines : List Micro) :
    hostOp i nb lines s = .next (drain s.replies (runLines lines (accept (encode i) s))) := by
  cases nb <;> simp_all [hostOp]

/-- All a host operation can do when it answers a next state. -/
theorem hostOp_next {i : Instr} {nb : Bool} {lines : List Micro} {s t : State}
    (h : hostOp i nb lines s = .next t) :
    s.busy = false ∧
      ((nb = true ∧ s.begun = false ∧ t = finish .notBegun (accept (encode i) s)) ∨
        ((nb = true → s.begun = true) ∧
          t = drain s.replies (runLines lines (accept (encode i) s)))) := by
  unfold hostOp at h
  split at h
  · cases h
  · rename_i hb
    refine ⟨by simpa using hb, ?_⟩
    split at h
    · rename_i hn
      simp only [Bool.and_eq_true, Bool.not_eq_true'] at hn
      simp only [Host.Outcome.next.injEq] at h
      exact .inl ⟨hn.1, hn.2, h.symm⟩
    · rename_i hn
      simp only [Host.Outcome.next.injEq] at h
      refine .inr ⟨fun hnb => ?_, h.symm⟩
      simpa [hnb] using hn

/-- All a wire command can do when it answers a next state: its call returns, or has not returned yet. -/
theorem wireOp_next {w : Wire} {s t : State} (h : wireOp w s = .next t) :
    ∃ c, pendingCall s = some c ∧ callWire c = w ∧
      ((∃ a rest, nextReply s = (some a, rest) ∧ t = respond a { s with replies := rest }) ∨
        (∃ rest, nextReply s = (none, rest) ∧ t = { s with replies := rest })) := by
  unfold wireOp at h
  split at h
  · rename_i c hc
    split at h
    · rename_i hw
      refine ⟨c, hc, hw, ?_⟩
      split at h <;> rename_i hr <;> simp only [Host.Outcome.next.injEq] at h
      · exact .inl ⟨_, _, hr, h.symm⟩
      · exact .inr ⟨_, hr, h.symm⟩
    · cases h
  · cases h

/-- The lines of a host operation's pseudocode. -/
def linesOf : Instr → List Micro
  | .begin hm =>
    [.clearBegun, .setAddress] ++ doReset ++ doSetHeater false ++ [.initModes hm] ++ doReadSerial ++
      [.setBegun]
  | .reset => doReset
  | .rdsn => doReadSerial
  | .reload => [.reload]
  | .wrreg _ => [.writeArg]
  | .setres r1 r0 => [.reload, .changeResolution r1 r0]
  | .setheat en => doSetHeater en
  | .getrescode => [.resultCode]
  | .getresT => [.reload, .resultTbits]
  | .getresRh => [.reload, .resultRhbits]
  | .getctT => [.reload, .resultConvTime .t]
  | .getctRh => [.reload, .resultConvTime .rh]
  | .sethold hm => [.putHold hm]
  | .settyp t => [.putTyp t]
  | .measT => doMeasure .t ++ [.resultT]
  | .measRh => doMeasure .rh ++ [.resultRh]
  | .measRhc => doMeasure .t ++ [.latchT] ++ doMeasure .rh ++ [.resultRhc]
  | .crc8 => [.resultCrc]
  | .chkcrc _ => [.resultCheck]
  | .cvtT => [.resultCvtT]
  | .cvtRh => [.resultCvtRh]
  | _ => []

/-- Every instruction is a wire command or a host operation over the shared operations. -/
theorem exec_cases (i : Instr) (s : State) :
    (∃ w, wireOf i = some w ∧ exec i s = wireOp w s) ∨
      (wireOf i = none ∧ exec i s = hostOp i (needsBegun i) (linesOf i) s) := by
  cases i <;> first
    | exact .inr ⟨rfl, rfl⟩
    | exact .inl ⟨_, rfl, rfl⟩

theorem exec_hostOp {i : Instr} (h : wireOf i = none) (s : State) :
    exec i s = hostOp i (needsBegun i) (linesOf i) s := by
  rcases exec_cases i s with ⟨w, hw, -⟩ | ⟨-, he⟩
  · simp [h] at hw
  · exact he

theorem exec_wire (w : Wire) (s : State) : exec w.instr s = wireOp w s := by cases w <;> rfl

theorem wireOf_eq_some {i : Instr} {w : Wire} (h : wireOf i = some w) : i = w.instr := by
  cases i <;> simp [wireOf] at h <;> subst h <;> rfl

/-! ### Steps -/

/-- The code of a wire command decodes to it. -/
theorem decodeWire_code (w : Wire) : decodeWire w.width w.code = .ok w.instr := by cases w <;> rfl

/-- What the machine does next while the block is at a call. -/
theorem fetchWire_of_pending {s : State} {c : Call} (h : pendingCall s = some c) :
    fetchWire s = .instr (callWire c).instr s := by
  simp [fetchWire, h, decodeWire_code]

theorem fetch_command {s : State} {v : Word32} {rest : List HostAct}
    (h : s.host = .write 0 v :: rest) : fetch s = fetchCommand v { s with host := rest } := by
  simp only [fetch, h]

theorem fetch_payload {s : State} {v : Word32} {rest : List HostAct}
    (h : s.host = .write 1 v :: rest) : fetch s = .plain (writePayload v { s with host := rest }) := by
  simp only [fetch, h]

theorem fetch_otherWrite {s : State} {i : Nat} {v : Word32} {rest : List HostAct}
    (h : s.host = .write (i + 2) v :: rest) : fetch s = .plain (.next { s with host := rest }) := by
  simp only [fetch, h]

theorem fetch_read {s : State} {i : Nat} {rest : List HostAct} (h : s.host = .read i :: rest) :
    fetch s = .plain (.next (hostRead i { s with host := rest })) := by
  simp only [fetch, h]

/-- The host awaits the block, or does nothing. -/
def HostWaits (s : State) : Prop := s.host = [] ∨ ∃ rest, s.host = .await :: rest

theorem fetch_busy {s : State} (h : HostWaits s) (hb : s.busy = true) : fetch s = fetchWire s := by
  rcases h with h | ⟨rest, h⟩ <;> simp [fetch, h, hb]

theorem fetch_idle {s : State} (h : s.host = []) (hb : s.busy = false) : fetch s = .plain (.next s) := by
  simp [fetch, h, hb]

theorem fetch_awaited {s : State} {rest : List HostAct} (h : s.host = .await :: rest)
    (hb : s.busy = false) : fetch s = .plain (.next { s with host := rest }) := by
  simp [fetch, h, hb]

theorem step_of_instr {s s' : State} {i : Instr} (h : fetch s = .instr i s') : step s = exec i s' := by
  simp [step, h]

theorem step_of_plain {s : State} {o : Host.Outcome State Fault Refusal} (h : fetch s = .plain o) :
    step s = o := by simp [step, h]

/-- What one step does when it answers a next state. -/
inductive Stepped (s t : State) : Prop where
  /-- the host's command word is an instruction -/
  | command (v : Word32) (rest : List HostAct) (i : Instr) (hh : s.host = .write 0 v :: rest)
      (hd : decodeHost (v.setWidth 16) = .ok i) (he : exec i { s with host := rest } = .next t)
  /-- the block's wire command -/
  | wire (c : Call) (hw : HostWaits s) (hb : s.busy = true) (hc : pendingCall s = some c)
      (he : exec (callWire c).instr s = .next t)
  /-- the block's lines up to its next call -/
  | lines (hw : HostWaits s) (hb : s.busy = true) (hc : pendingCall s = none)
      (ht : t = runLines s.seq.phase s)
  /-- the host's command word is no instruction -/
  | illegal (v : Word32) (rest : List HostAct) (r : Reject) (hh : s.host = .write 0 v :: rest)
      (hd : decodeHost (v.setWidth 16) = .error r) (hb : s.busy = false)
      (ht : t = finish .illegalOperation (accept (v.setWidth 16) { s with host := rest }))
  /-- the host writes `PAYLOAD` -/
  | payload (v : Word32) (rest : List HostAct) (hh : s.host = .write 1 v :: rest)
      (hb : s.busy = false) (ht : t = { s with host := rest, payload := v })
  /-- the host writes a register it cannot -/
  | otherWrite (i : Nat) (v : Word32) (rest : List HostAct) (hh : s.host = .write (i + 2) v :: rest)
      (ht : t = { s with host := rest })
  /-- the host reads -/
  | read (i : Nat) (rest : List HostAct) (hh : s.host = .read i :: rest)
      (ht : t = hostRead i { s with host := rest })
  /-- the operation the host awaits has ended -/
  | awaited (rest : List HostAct) (hh : s.host = .await :: rest) (hb : s.busy = false)
      (ht : t = { s with host := rest })
  /-- nothing to do -/
  | idle (hh : s.host = []) (hb : s.busy = false) (ht : t = s)

/-- A step of a busy block whose host waits. -/
theorem step_busy_next {s t : State} (hw : HostWaits s) (hb : s.busy = true) (h : step s = .next t) :
    Stepped s t := by
  unfold step at h
  rw [fetch_busy hw hb] at h
  cases hc : pendingCall s with
  | some c => rw [fetchWire_of_pending hc] at h; exact .wire c hw hb hc h
  | none =>
    have hf : fetchWire s = .plain (.next (runLines s.seq.phase s)) := by simp only [fetchWire, hc]
    rw [hf] at h
    exact .lines hw hb hc (Host.Outcome.next.inj h).symm

/-- A step that takes a host write. -/
theorem step_write_next {s t : State} {i : Nat} {v : Word32} {rest : List HostAct}
    (hh : s.host = .write i v :: rest) (h : step s = .next t) : Stepped s t := by
  unfold step at h
  match i with
  | 0 =>
    rw [fetch_command hh, fetchCommand] at h
    cases hd : decodeHost (v.setWidth 16) with
    | ok i => rw [hd] at h; exact .command v rest i hh hd h
    | error r =>
      rw [hd] at h
      simp only [illegalWord] at h
      split at h
      · cases h
      · rename_i hb
        exact .illegal v rest r hh hd (by simpa using hb) (Host.Outcome.next.inj h).symm
  | 1 =>
    rw [fetch_payload hh] at h
    simp only [writePayload] at h
    split at h
    · cases h
    · rename_i hb
      exact .payload v rest hh (by simpa using hb) (Host.Outcome.next.inj h).symm
  | i + 2 =>
    rw [fetch_otherWrite hh] at h
    exact .otherWrite i v rest hh (Host.Outcome.next.inj h).symm

/-- Everything a step can do when it answers a next state. -/
theorem step_next {s t : State} (h : step s = .next t) : Stepped s t := by
  rcases hh : s.host with _ | ⟨act, rest⟩
  · by_cases hb : s.busy = true
    · exact step_busy_next (.inl hh) hb h
    · rw [step_of_plain (fetch_idle hh (by simpa using hb))] at h
      exact .idle hh (by simpa using hb) (Host.Outcome.next.inj h).symm
  · cases act with
    | write i v => exact step_write_next hh h
    | read i =>
      rw [step_of_plain (fetch_read hh)] at h
      exact .read i rest hh (Host.Outcome.next.inj h).symm
    | await =>
      by_cases hb : s.busy = true
      · exact step_busy_next (.inr ⟨rest, hh⟩) hb h
      · rw [step_of_plain (fetch_awaited hh (by simpa using hb))] at h
        exact .awaited rest hh (by simpa using hb) (Host.Outcome.next.inj h).symm

end Sys2Proof.Machine
end

