-- ==== Sys2Proof/Laws/Inputs.lean ====
section
/-! SUPPORT. The block's own updates neither read nor write the inputs: what the host does next and the
transport's coming answers. -/

namespace Sys2Proof.Machine

/-- `s` with other inputs. -/
def State.withInputs (s : State) (l : List HostAct) (rs : List Reply) : State :=
  { s with host := l, replies := rs }

/-- A line's outcome with other inputs. -/
def withInputs (p : Progress) (l : List HostAct) (rs : List Reply) : Progress :=
  match p with
  | .done s => .done (s.withInputs l rs)
  | .wait s => .wait (s.withInputs l rs)
  | .raised k s => .raised k (s.withInputs l rs)

variable (l : List HostAct) (rs : List Reply)

@[simp] theorem withInputs_host (s : State) : (s.withInputs l rs).host = l := rfl
@[simp] theorem withInputs_replies (s : State) : (s.withInputs l rs).replies = rs := rfl
@[simp] theorem withInputs_busy (s : State) : (s.withInputs l rs).busy = s.busy := rfl
@[simp] theorem withInputs_self (s : State) : s.withInputs s.host s.replies = s := rfl
@[simp] theorem withInputs_twice (s : State) (l' : List HostAct) (rs' : List Reply) :
    (s.withInputs l' rs').withInputs l rs = s.withInputs l rs := rfl

theorem startLine_withInputs (m : Micro) (s : State) :
    startLine m (s.withInputs l rs) = withInputs (startLine m s) l rs := by
  cases m <;> simp only [startLine] <;> (try split) <;> simp_all [withInputs, State.withInputs] <;> rfl

theorem attemptFailed_withInputs (s : State) :
    attemptFailed (s.withInputs l rs) = withInputs (attemptFailed s) l rs := by
  by_cases h : s.seq.att < maxAttempts
  · rw [attemptFailed, if_pos (show (s.withInputs l rs).seq.att < maxAttempts from h), attemptFailed, if_pos h]
    rfl
  · rw [attemptFailed, if_neg (show ¬ (s.withInputs l rs).seq.att < maxAttempts from h), attemptFailed,
      if_neg h]
    rfl

theorem measureAnswer_withInputs (kind : Kind) (a : Answer) (s : State) :
    measureAnswer kind a (s.withInputs l rs) = withInputs (measureAnswer kind a s) l rs := by
  have hr : ∀ bytes, frameReceived kind bytes (s.withInputs l rs) =
      withInputs (frameReceived kind bytes s) l rs := by
    intro bytes
    unfold frameReceived
    dsimp only
    split
    · rfl
    · exact attemptFailed_withInputs l rs
        { setMst .frameReceived s with
          seq := { (setMst .frameReceived s).seq with word := measWord bytes } }
  have hc : commandSent (s.withInputs l rs) = (commandSent s).withInputs l rs := by
    cases h : s.hold <;> simp [commandSent, setMst, State.withInputs, h]
  unfold measureAnswer
  rw [show (s.withInputs l rs).seq.mst = s.seq.mst from rfl, hc, attemptFailed_withInputs]
  split <;> first | exact hr _ | rfl

theorem answerLine_withInputs (m : Micro) (a : Answer) (s : State) :
    answerLine m a (s.withInputs l rs) = withInputs (answerLine m a s) l rs := by
  cases m <;> simp only [answerLine, writeAnswer]
  case attempts kind => exact measureAnswer_withInputs l rs kind a s
  all_goals (repeat' split) <;> rfl

theorem heard_withInputs (c : Call) (a : Answer) (s : State) :
    heard c a (s.withInputs l rs) = (heard c a s).withInputs l rs := by
  unfold heard; dsimp only; split <;> rfl

theorem raiseError_withInputs (k : ErrKind) (s : State) :
    raiseError k (s.withInputs l rs) = (raiseError k s).withInputs l rs := rfl

theorem runLines_withInputs (ms : List Micro) (s : State) :
    runLines ms (s.withInputs l rs) = (runLines ms s).withInputs l rs := by
  induction ms generalizing s with
  | nil => rfl
  | cons m rest ih =>
    simp only [runLines, startLine_withInputs]
    cases startLine m s with
    | done t => exact ih t
    | wait t => rfl
    | raised k t => rfl

theorem afterLine_withInputs (m : Micro) (ms : List Micro) (p : Progress) :
    afterLine m ms (withInputs p l rs) = (afterLine m ms p).withInputs l rs := by
  cases p with
  | done t => exact runLines_withInputs l rs ms t
  | wait t => rfl
  | raised k t => rfl

theorem pendingLine_withInputs (s : State) : pendingLine (s.withInputs l rs) = pendingLine s := by
  have hc : ∀ m, callOf m (s.withInputs l rs) = callOf m s := by intro m; cases m <;> rfl
  simp only [pendingLine, hc]
  rfl

theorem pendingCall_withInputs (s : State) : pendingCall (s.withInputs l rs) = pendingCall s := by
  simp only [pendingCall, pendingLine_withInputs]

/-- A call that returns does the same whatever the inputs are. -/
theorem respond_withInputs (a : Answer) (s : State) :
    respond a (s.withInputs l rs) = (respond a s).withInputs l rs := by
  simp only [respond, pendingLine_withInputs]
  cases pendingLine s with
  | none => rfl
  | some x =>
    dsimp only
    rw [heard_withInputs, answerLine_withInputs, afterLine_withInputs]

/-- A call that returns leaves the inputs. -/
theorem respond_inputs (a : Answer) (s : State) :
    (respond a s).host = s.host ∧ (respond a s).replies = s.replies := by
  have h := respond_withInputs s.host s.replies a s
  rw [withInputs_self] at h
  constructor <;> rw [h] <;> rfl

end Sys2Proof.Machine
end

