-- ==== Sys2Proof/Laws/Kept.lean ====
section
/-! SUPPORT. A property that the parts of an operation keep is kept by every instruction and every step. -/

namespace Sys2Proof.Machine

/-- The state a line leaves, however it ends. -/
def stateOf : Progress → State
  | .done s => s
  | .wait s => s
  | .raised _ s => s

@[simp] theorem stateOf_done (s : State) : stateOf (.done s) = s := rfl
@[simp] theorem stateOf_wait (s : State) : stateOf (.wait s) = s := rfl
@[simp] theorem stateOf_raised (k : ErrKind) (s : State) : stateOf (.raised k s) = s := rfl

/-- The parts of an operation keep `P`: the lines in `ok` up to their call, the lines in `ok` after their
call is answered, the ends, and what only moves the sequencer or takes an answer. -/
structure Kept (ok : Micro → Prop) (P : State → Prop) : Prop where
  start : ∀ m s, ok m → P s → P (stateOf (startLine m s))
  answer : ∀ m c a s, ok m → callOf m s = some c → P s →
    P (stateOf (answerLine m (deliver (callCount c) a) (heard c (deliver (callCount c) a) s)))
  phase : ∀ s ms, P s → P { s with seq := { s.seq with phase := ms } }
  replies : ∀ s rs, P s → P { s with replies := rs }
  output : ∀ s v, P s → P { s with result := v }
  finish : ∀ k s, P s → P (finish k s)

namespace Kept
variable {ok : Micro → Prop} {P : State → Prop} (K : Kept ok P)
include K

theorem raiseError {k : ErrKind} {s : State} (h : P s) : P (Machine.raiseError k s) :=
  K.finish _ _ (K.output _ _ h)

theorem runLines {ms : List Micro} {s : State} (hm : ∀ m ∈ ms, ok m) (h : P s) :
    P (Machine.runLines ms s) := by
  induction ms generalizing s with
  | nil => exact K.finish _ _ h
  | cons m rest ih =>
    have hs := K.start m s (hm m (by simp)) h
    unfold Machine.runLines
    cases hp : startLine m s <;> rw [hp] at hs
    · exact ih (fun m hx => hm m (by simp [hx])) hs
    · exact K.phase _ _ hs
    · exact K.raiseError hs

theorem afterLine {m : Micro} {rest : List Micro} {p : Progress} (hm : ∀ m ∈ rest, ok m)
    (h : P (stateOf p)) : P (Machine.afterLine m rest p) := by
  cases p
  · exact K.runLines hm h
  · exact K.phase _ _ h
  · exact K.raiseError h

theorem respond {a : Answer} {s : State} (hm : ∀ m ∈ s.seq.phase, ok m) (h : P s) :
    P (Machine.respond a s) := by
  unfold Machine.respond
  split
  · rename_i c m rest hp
    obtain ⟨-, hph, hc⟩ := pendingLine_eq_some.mp hp
    rw [hph] at hm
    exact K.afterLine (fun m hx => hm m (by simp [hx])) (K.answer m c a s (hm m (by simp)) hc h)
  · exact h

end Kept

/-- The lines still to run are in `ok`. -/
def PhaseIn (ok : Micro → Prop) (s : State) : Prop := ∀ m ∈ s.seq.phase, ok m

@[simp] theorem emit_phase (e : Event) (s : State) : (emit e s).seq.phase = s.seq.phase := rfl

theorem heard_phase (c : Call) (a : Answer) (s : State) : (heard c a s).seq.phase = s.seq.phase := by
  unfold heard; dsimp only; split <;> rfl

theorem startLine_phase (m : Micro) (s : State) : (stateOf (startLine m s)).seq.phase = s.seq.phase := by
  cases m <;> simp only [startLine] <;> first | rfl | (split <;> rfl)

/-- A failed attempt: the next one starts, or the measurement has failed. -/
theorem attemptFailed_cases (s : State) :
    (s.seq.att < 3 ∧
      attemptFailed s = .wait { s with seq := { s.seq with mst := .retry, att := s.seq.att + 1 } }) ∨
    (3 ≤ s.seq.att ∧
      attemptFailed s = .raised .measurement { s with seq := { s.seq with mst := .idle } }) := by
  unfold attemptFailed
  split
  · rename_i h; exact .inl ⟨h, rfl⟩
  · rename_i h; exact .inr ⟨Nat.not_lt.mp h, rfl⟩

/-- All that the answer to a measurement's call changes: the measurement state, the attempt counter, the
word, and a delay in the trace. -/
theorem stateOf_measureAnswer (kind : Kind) (a : Answer) (s : State) :
    ∃ mst att word tr, stateOf (measureAnswer kind a s) =
        { s with trace := s.trace ++ tr, seq := { s.seq with mst := mst, att := att, word := word } } ∧
      att ≤ max s.seq.att 3 ∧ (tr = [] ∨ tr = [.delay s.seq.ct.toNat]) := by
  have same : ∀ m att w, att ≤ max s.seq.att 3 → ∃ mst att' word tr,
      ({ s with seq := { s.seq with mst := m, att := att, word := w } } : State) =
        { s with trace := s.trace ++ tr, seq := { s.seq with mst := mst, att := att', word := word } } ∧
      att' ≤ max s.seq.att 3 ∧ (tr = [] ∨ tr = [.delay s.seq.ct.toNat]) :=
    fun m att w h => ⟨m, att, w, [], by simp, h, .inl rfl⟩
  have hf : ∀ w m, ∃ m' att, att ≤ max s.seq.att 3 ∧
      stateOf (attemptFailed { s with seq := { s.seq with mst := m, word := w } }) =
        { s with seq := { s.seq with mst := m', att := att, word := w } } := by
    intro w m
    rcases attemptFailed_cases { s with seq := { s.seq with mst := m, word := w } } with ⟨hl, he⟩ | ⟨-, he⟩ <;>
      rw [he]
    · have hl : s.seq.att < 3 := hl
      exact ⟨_, _, by simp; omega, rfl⟩
    · exact ⟨_, _, by simp, rfl⟩
  have hf' : ∃ m' att, att ≤ max s.seq.att 3 ∧ stateOf (attemptFailed s) =
      { s with seq := { s.seq with mst := m', att := att } } := hf s.seq.word s.seq.mst
  have hr : ∀ bytes, ∃ m' att, att ≤ max s.seq.att 3 ∧ stateOf (frameReceived kind bytes s) =
      { s with seq := { s.seq with mst := m', att := att, word := measWord bytes } } := by
    intro bytes
    simp only [frameReceived]
    split
    · exact ⟨_, _, Nat.le_max_left _ _, rfl⟩
    · exact hf _ _
  unfold measureAnswer
  split
  · obtain ⟨m', att, h, he⟩ := hr ‹_›; rw [he]; exact same _ _ _ h
  · obtain ⟨m', att, h, he⟩ := hf'; rw [he]; exact same _ _ _ h
  · obtain ⟨m', att, h, he⟩ := hr ‹_›; rw [he]; exact same _ _ _ h
  · exact ⟨s.seq.mst, s.seq.att, s.seq.word, _, rfl, Nat.le_max_left _ _, .inr rfl⟩
  · obtain ⟨m', att, h, he⟩ := hf'; rw [he]; exact same _ _ _ h
  · simp only [commandSent]
    split <;> exact same _ _ _ (Nat.le_max_left _ _)
  · obtain ⟨m', att, h, he⟩ := hf'; rw [he]; exact same _ _ _ h

theorem measureAnswer_phase (kind : Kind) (a : Answer) (s : State) :
    (stateOf (measureAnswer kind a s)).seq.phase = s.seq.phase := by
  obtain ⟨_, _, _, _, he, -, -⟩ := stateOf_measureAnswer kind a s
  rw [he]

theorem answerLine_phase (m : Micro) (a : Answer) (s : State) :
    (stateOf (answerLine m a s)).seq.phase = s.seq.phase := by
  cases m <;> simp only [answerLine, writeAnswer]
  case attempts k => exact measureAnswer_phase k a s
  all_goals first | rfl | ((repeat' split) <;> rfl)

theorem runLines_phaseIn {ok : Micro → Prop} {ms : List Micro} {s : State} (hm : ∀ m ∈ ms, ok m) :
    PhaseIn ok (runLines ms s) := by
  induction ms generalizing s with
  | nil => simp [PhaseIn, runLines, complete]
  | cons m rest ih =>
    unfold runLines
    cases startLine m s
    · exact ih fun m hx => hm m (by simp [hx])
    · exact hm
    · simp [PhaseIn, raiseError]

theorem respond_phaseIn {ok : Micro → Prop} {a : Answer} {s : State} (hm : PhaseIn ok s) :
    PhaseIn ok (respond a s) := by
  unfold respond
  split
  · rename_i c m rest hp
    obtain ⟨-, hph, -⟩ := pendingLine_eq_some.mp hp
    rw [PhaseIn, hph] at hm
    dsimp only
    cases answerLine m (deliver (callCount c) a) (heard c (deliver (callCount c) a) s)
    · exact runLines_phaseIn fun m hx => hm m (by simp [hx])
    · exact hm
    · simp [PhaseIn, afterLine, raiseError]
  · exact hm

namespace Kept
variable {ok : Micro → Prop} {P : State → Prop} (K : Kept ok P)
include K

theorem drain {rs : List Reply} {s : State} (hm : PhaseIn ok s) (h : P s) : P (Machine.drain rs s) := by
  induction rs generalizing s with
  | nil => exact h
  | cons r rest ih =>
    by_cases hb : s.busy = true
    · cases r with
      | none => rw [drain_blocked hb]; exact K.replies _ _ h
      | some a =>
        rw [drain_answer hb]
        have hm' : PhaseIn ok { s with replies := rest } := hm
        exact ih (respond_phaseIn hm') (K.respond hm' (K.replies _ _ h))
    · rw [drain_idle (by simpa using hb)]; exact h

/-- A host operation over lines in `ok` keeps `P`, from its acceptance on. -/
theorem hostOp {i : Instr} {nb : Bool} {lines : List Micro} {s t : State} (hm : ∀ m ∈ lines, ok m)
    (h : P (accept (encode i) s)) (he : Machine.hostOp i nb lines s = .next t) : P t := by
  obtain ⟨-, ⟨-, -, rfl⟩ | ⟨-, rfl⟩⟩ := hostOp_next he
  · exact K.finish _ _ h
  · exact K.drain (runLines_phaseIn hm) (K.runLines hm h)

/-- A wire command at a line in `ok` keeps `P`. -/
theorem wireOp {w : Wire} {s t : State} (hm : PhaseIn ok s) (h : P s)
    (he : Machine.wireOp w s = .next t) : P t := by
  obtain ⟨c, -, -, ⟨a, rest, -, rfl⟩ | ⟨rest, -, rfl⟩⟩ := wireOp_next he
  · exact K.respond (s := { s with replies := rest }) hm (K.replies _ _ h)
  · exact K.replies _ _ h

end Kept

/-- What every instruction keeps. -/
theorem Kept.exec {P : State → Prop} (K : Kept (fun _ => True) P) {i : Instr} {s t : State} (h : P s)
    (ha : P (accept (encode i) s)) (he : Machine.exec i s = .next t) : P t := by
  rcases exec_cases i s with ⟨w, -, hx⟩ | ⟨-, hx⟩ <;> rw [hx] at he
  · exact K.wireOp (fun _ _ => trivial) h he
  · exact K.hostOp (fun _ _ => trivial) ha he

/-- What every step keeps: the parts of an operation, the acceptance of a word, and what the host does at
the register file. -/
theorem Kept.step {P : State → Prop} (K : Kept (fun _ => True) P)
    (hacc : ∀ w s, P s → P (accept w s)) (hhost : ∀ s l, P s → P { s with host := l })
    (hpay : ∀ s v, P s → P { s with payload := v })
    (hread : ∀ s v n, P s → P { s with readData := v, freeReads := n })
    {s t : State} (h : P s) (hs : Machine.step s = .next t) : P t := by
  cases step_next hs with
  | command v rest i hh hd he => exact K.exec (hhost _ _ h) (hacc _ _ (hhost _ _ h)) he
  | wire c hw hb hc he =>
    refine K.wireOp (w := callWire c) (fun _ _ => trivial) h ?_
    rw [← exec_wire]; exact he
  | lines hw hb hc ht => subst ht; exact K.runLines (fun _ _ => trivial) h
  | illegal v rest r hh hd hb ht => subst ht; exact K.finish _ _ (hacc _ _ (hhost _ _ h))
  | payload v rest hh hb ht => subst ht; exact hpay _ v (hhost _ rest h)
  | otherWrite i v rest hh ht => subst ht; exact hhost _ _ h
  | read i rest hh ht => subst ht; exact hread _ _ _ (hhost _ _ h)
  | awaited rest hh hb ht => subst ht; exact hhost _ _ h
  | idle hh hb ht => subst ht; exact h

end Sys2Proof.Machine
end

