-- ==== Sys2Proof/Laws/PerInstr.lean ====
section
/-! SUPPORT. Facts about each instruction as syntax, one lemma per constructor. -/

namespace Sys2Proof.Laws.WordFits

/-- The word of an instruction fits its length (30_encoding R72, R85). -/
def Statement (i : Instr) : Prop := (encode i).toNat < 2 ^ width i

/-- A 16-bit instruction's word always fits. -/
theorem of_width16 {i : Instr} (h : width i = 16) : Statement i := by
  rw [Statement, h]; exact (encode i).isLt

theorem begin (hm : Bool) : Statement (.begin hm) := of_width16 rfl
theorem reset : Statement (.reset) := of_width16 rfl
theorem rdsn : Statement (.rdsn) := of_width16 rfl
theorem reload : Statement (.reload) := of_width16 rfl
theorem wrreg (v : Byte) : Statement (.wrreg v) := of_width16 rfl
theorem setres (r1 r0 : Bool) : Statement (.setres r1 r0) := of_width16 rfl
theorem setheat (en : Bool) : Statement (.setheat en) := of_width16 rfl
theorem getrescode : Statement (.getrescode) := of_width16 rfl
theorem getresT : Statement (.getresT) := of_width16 rfl
theorem getresRh : Statement (.getresRh) := of_width16 rfl
theorem getctT : Statement (.getctT) := of_width16 rfl
theorem getctRh : Statement (.getctRh) := of_width16 rfl
theorem sethold (hm : Bool) : Statement (.sethold hm) := of_width16 rfl
theorem settyp (t : Bool) : Statement (.settyp t) := of_width16 rfl
theorem measT : Statement (.measT) := of_width16 rfl
theorem measRh : Statement (.measRh) := of_width16 rfl
theorem measRhc : Statement (.measRhc) := of_width16 rfl
theorem crc8 : Statement (.crc8) := of_width16 rfl
theorem chkcrc (c : Byte) : Statement (.chkcrc c) := of_width16 rfl
theorem cvtT : Statement (.cvtT) := of_width16 rfl
theorem cvtRh : Statement (.cvtRh) := of_width16 rfl
theorem wMeasTHold : Statement (.wMeasTHold) := by simp only [Statement]; decide
theorem wMeasRhHold : Statement (.wMeasRhHold) := by simp only [Statement]; decide
theorem wMeasTNohold : Statement (.wMeasTNohold) := by simp only [Statement]; decide
theorem wMeasRhNohold : Statement (.wMeasRhNohold) := by simp only [Statement]; decide
theorem wSoftReset : Statement (.wSoftReset) := by simp only [Statement]; decide
theorem wWriteUreg : Statement (.wWriteUreg) := by simp only [Statement]; decide
theorem wReadUreg : Statement (.wReadUreg) := by simp only [Statement]; decide
theorem wReadSnb : Statement (.wReadSnb) := of_width16 rfl
theorem wReadSnac : Statement (.wReadSnac) := of_width16 rfl

end Sys2Proof.Laws.WordFits
end

