-- ==== Sys2Proof/Machine/Assembler.lean ====
section
/-! DEFINITION. The assembler syntax of host programs (30_encoding R90): lines, their text, and what the
host does for them. -/

namespace Sys2Proof.Machine

/-- A line of a host program (30_encoding R90). -/
inductive Line where
  /-- `PAYLOAD = <number>` -/
  | payload (v : Word32)
  /-- a host command -/
  | command (i : Instr)
deriving DecidableEq, Repr

/-- A wire command is no line of a host program (30_encoding R86, R90). -/
def lineWellFormed : Line → Bool
  | .payload _ => true
  | .command i => (wireOf i).isNone

/-- What the host does for a line: a write to `PAYLOAD`, or a command word and the wait for its completion
(20_memory R56, 30_encoding R90). -/
def lineActs : Line → List HostAct
  | .payload v => [.write 1 v]
  | .command i => [.write 0 ((encode i).setWidth 32), .await]

/-- What the host does for a program: its lines in order, each command after the completion of the one
before (30_encoding R90). -/
def programActs (lines : List Line) : List HostAct := lines.flatMap lineActs

/-- The mnemonic of an instruction (30_encoding R71, R86). -/
def mnemonicOf : Instr → String
  | .begin _ => "BEGIN"
  | .reset => "RESET"
  | .rdsn => "RDSN"
  | .reload => "RELOAD"
  | .wrreg _ => "WRREG"
  | .setres _ _ => "SETRES"
  | .setheat _ => "SETHEAT"
  | .getrescode => "GETRESCODE"
  | .getresT => "GETRES_T"
  | .getresRh => "GETRES_RH"
  | .getctT => "GETCT_T"
  | .getctRh => "GETCT_RH"
  | .sethold _ => "SETHOLD"
  | .settyp _ => "SETTYP"
  | .measT => "MEAS_T"
  | .measRh => "MEAS_RH"
  | .measRhc => "MEAS_RHC"
  | .crc8 => "CRC8"
  | .chkcrc _ => "CHKCRC"
  | .cvtT => "CVT_T"
  | .cvtRh => "CVT_RH"
  | .wMeasTHold => "W_MEAS_T_HOLD"
  | .wMeasRhHold => "W_MEAS_RH_HOLD"
  | .wMeasTNohold => "W_MEAS_T_NOHOLD"
  | .wMeasRhNohold => "W_MEAS_RH_NOHOLD"
  | .wSoftReset => "W_SOFT_RESET"
  | .wWriteUreg => "W_WRITE_UREG"
  | .wReadUreg => "W_READ_UREG"
  | .wReadSnb => "W_READ_SNB"
  | .wReadSnac => "W_READ_SNAC"

/-- The operands of a host command, in the order of the syntax (30_encoding R86, R90). -/
def operandsOf : Instr → List Nat
  | .begin hm => [hm.toNat]
  | .wrreg v => [v.toNat]
  | .setres r1 r0 => [r1.toNat, r0.toNat]
  | .setheat en => [en.toNat]
  | .sethold hm => [hm.toNat]
  | .settyp t => [t.toNat]
  | .chkcrc c => [c.toNat]
  | _ => []

/-- The text of a line, its numbers in decimal (30_encoding R90). -/
def lineText : Line → String
  | .payload v => "PAYLOAD = " ++ toString v.toNat
  | .command i =>
    match operandsOf i with
    | [] => mnemonicOf i
    | ns => mnemonicOf i ++ " " ++ ",".intercalate (ns.map toString)

end Sys2Proof.Machine
end

