-- ==== Sys2Proof/Tests/Slice0.lean ====
section
/-! SUPPORT. Tests: ill-formed terms refused, words decoded, one step each on the vectors of
95_test_vectors, and concrete states that meet the hypotheses of the statements. -/

namespace Sys2Proof.Tests
open Sys2Proof Sys2Proof.Machine

/-! ### Ill-formed terms -/

/-- A reserved opcode (30_encoding R86). -/
theorem test_reserved_opcode_ill_formed : wordLegal 0x0400 = false := by decide

/-- An operand bit that the table shows as 0 (30_encoding R89). -/
theorem test_reserved_argument_ill_formed : wordLegal 0x2001 = false := by decide

/-- The top operand bit of SETHEAT (30_encoding R89). -/
theorem test_high_argument_ill_formed : wordLegal 0x1380 = false := by decide

/-- Two rows with the same temperature depth (42_resolution R126). -/
theorem test_table_with_repeated_depth_ill_formed :
    { Config.defaultResTable with
      row1 := { Config.defaultResTable.row1 with tbits := 14 } }.wellFormed = false := by decide

/-- A humidity depth that is none of the four (42_resolution R126). -/
theorem test_table_with_foreign_depth_ill_formed :
    { Config.defaultResTable with
      row3 := { Config.defaultResTable.row3 with rhbits := 9 } }.wellFormed = false := by decide

theorem test_default_table_well_formed : Config.defaultResTable.wellFormed = true := by decide

/-- A value wider than `CMD` (10_state R11). -/
theorem test_wide_command_ill_formed : (HostAct.write 0 0x10000).wellFormed = false := by decide

theorem test_command_well_formed : (HostAct.write 0 0xFFFF).wellFormed = true := by decide

/-- A wire command in a host program (30_encoding R90). -/
theorem test_wire_line_ill_formed : lineWellFormed (.command .wReadUreg) = false := by decide

/-- The examples of 30_encoding R90: text, and the host's actions. -/
theorem test_program :
    ([Line.command (.setres true false), .command .measT].map lineText) = ["SETRES 1,0", "MEAS_T"] ∧
    programActs [.payload 0x683A, .command (.setres true false)] =
      [.write 1 0x683A, .write 0 0x1202, .await] := by decide

/-! ### Words written out from 30_encoding R71 and R86: opcode in bits 15:8, operand in bits 7:0 -/

theorem test_decode_begin : decodeTableWord 16 0b00000001_00000001 = some (.begin true) := by decide
theorem test_decode_reset : decodeTableWord 16 0b00000010_00000000 = some .reset := by decide
theorem test_decode_rdsn : decodeTableWord 16 0b00000011_00000000 = some .rdsn := by decide
theorem test_decode_reload : decodeTableWord 16 0b00010000_00000000 = some .reload := by decide
theorem test_decode_wrreg : decodeTableWord 16 0b00010001_10000011 = some (.wrreg 0x83) := by decide
theorem test_decode_setres_high : decodeTableWord 16 0b00010010_00000010 = some (.setres true false) := by
  decide
theorem test_decode_setres_low : decodeTableWord 16 0b00010010_00000001 = some (.setres false true) := by
  decide
theorem test_decode_setheat : decodeTableWord 16 0b00010011_00000001 = some (.setheat true) := by decide
theorem test_decode_getrescode : decodeTableWord 16 0b00010100_00000000 = some .getrescode := by decide
theorem test_decode_getres_t : decodeTableWord 16 0b00011000_00000000 = some .getresT := by decide
theorem test_decode_getres_rh : decodeTableWord 16 0b00011001_00000000 = some .getresRh := by decide
theorem test_decode_getct_t : decodeTableWord 16 0b00011010_00000000 = some .getctT := by decide
theorem test_decode_getct_rh : decodeTableWord 16 0b00011011_00000000 = some .getctRh := by decide
theorem test_decode_sethold : decodeTableWord 16 0b00011100_00000001 = some (.sethold true) := by decide
theorem test_decode_settyp : decodeTableWord 16 0b00011101_00000000 = some (.settyp false) := by decide
theorem test_decode_meas_t : decodeTableWord 16 0b00100000_00000000 = some .measT := by decide
theorem test_decode_meas_rh : decodeTableWord 16 0b00100001_00000000 = some .measRh := by decide
theorem test_decode_meas_rhc : decodeTableWord 16 0b00100010_00000000 = some .measRhc := by decide
theorem test_decode_crc8 : decodeTableWord 16 0b00110000_00000000 = some .crc8 := by decide
theorem test_decode_chkcrc : decodeTableWord 16 0b00110001_01111100 = some (.chkcrc 0x7C) := by decide
theorem test_decode_cvt_t : decodeTableWord 16 0b00110010_00000000 = some .cvtT := by decide
theorem test_decode_cvt_rh : decodeTableWord 16 0b00110011_00000000 = some .cvtRh := by decide
theorem test_decode_w_meas_t_hold : decodeTableWord 8 0b11100011 = some .wMeasTHold := by decide
theorem test_decode_w_meas_rh_hold : decodeTableWord 8 0b11100101 = some .wMeasRhHold := by decide
theorem test_decode_w_meas_t_nohold : decodeTableWord 8 0b11110011 = some .wMeasTNohold := by decide
theorem test_decode_w_meas_rh_nohold : decodeTableWord 8 0b11110101 = some .wMeasRhNohold := by decide
theorem test_decode_w_soft_reset : decodeTableWord 8 0b11111110 = some .wSoftReset := by decide
theorem test_decode_w_write_ureg : decodeTableWord 8 0b11100110 = some .wWriteUreg := by decide
theorem test_decode_w_read_ureg : decodeTableWord 8 0b11100111 = some .wReadUreg := by decide
theorem test_decode_w_read_snb : decodeTableWord 16 0b11111010_00001111 = some .wReadSnb := by decide
theorem test_decode_w_read_snac : decodeTableWord 16 0b11111100_11001001 = some .wReadSnac := by decide

/-- V76 to V79b: words that are no instruction (60_exceptions R211). -/
theorem test_decode_refuses :
    [0x2001, 0x0102, 0x0400, 0xFF00, 0x1204].map (decodeTableWord 16) =
      [none, none, none, none, none] := by decide

/-- The wire code of a serial read is no host command (30_encoding R86: `0xFA` is reserved). -/
theorem test_wire_code_is_no_command : decodeHost 0xFA0F = .error .reservedOpcode := by decide

/-! ### One operation each, from 95_test_vectors -/

/-- The parameters of the vectors: the defaults and `TEMP_COEF = -150`. -/
def params : Params := { Config.params with tempCoef := -150 }

/-- Power-on with those parameters and coming answers. -/
def fresh (replies : List Reply) : State := { State.reset with params := params, replies := replies }

/-- The same with a reset value whose bit 2 is set, so that BEGIN makes the heater write (45_lifecycle R185). -/
def freshHot (replies : List Reply) : State :=
  { fresh replies with params := { params with uregResetValue := 0x06 } }

/-- The vectors' start state: idle after a successful BEGIN 1 (95_test_vectors, conventions). -/
def idle (replies : List Reply) : State :=
  { fresh replies with begun := true, hold := true, uvalid := true, ureg := 0x02 }

/-- The block at a line of an operation of opcode `op`, in attempt 1 of a temperature measurement. -/
def at' (op : Byte) (mst : MeasState) (lines : List Micro) (replies : List Reply) : State :=
  { idle replies with
    busy := true
    seq := { Seq.reset with op := some op, mst := mst, att := 1, ct := 50, phase := lines } }

def sent : Reply := some (.ok [])
def got (bytes : List Byte) : Reply := some (.ok bytes)
def hard (e : Byte) : Reply := some (.hardError e)
def notYet : Reply := some (.notReady 1)
def partB : List Byte := [0x56, 0xD8, 0x78, 0x41, 0x9A, 0xE2, 0xBC, 0xC2]
def partAC : List Byte := [0xDE, 0xF0, 0x2B, 0x12, 0x34, 0xB6]

/-- What a next state shows. -/
def look {α : Type} (o : Host.Outcome State Fault Refusal) (f : State → α) : Option α :=
  match o with
  | .next s => some (f s)
  | _ => none

/-- V60: status, identity, and what a BEGIN leaves of the shadow. -/
theorem test_begin : look (exec (.begin true) (fresh [sent, got [0x02], got partB, got partAC]))
    (fun t => (statusWord t, t.ureg, serialNumber t)) = some (0x000E, 0x02, 0x123456789ABCDEF0) := by
  decide +kernel

/-- V68b: the heater write fails, before the mode flags are written. -/
theorem test_begin_heater_write_fails :
    look (exec (.begin true) { fresh [sent, got [0x06], hard 0x02] with
      params := { params with uregResetValue := 0x06 } }) statusWord = some 0x0300 := by decide

/-- V69b. -/
theorem test_reset : look (exec .reset (idle [sent, got [0x02]])) (fun t => (statusWord t, t.trace)) =
    some (0x000E, [.send 0x00FE (.ok []), .delay 15, .recv 0x00E7 1 (.ok [0x02])]) := by decide

/-- A register that differs after the reset (45_lifecycle R187; V62 for BEGIN). -/
theorem test_reset_compare_fails :
    look (exec .reset (idle [sent, got [0x42]])) (fun t => (statusWord t, t.ureg)) =
      some (0x010E, 0x42) := by decide

/-- V69. -/
theorem test_rdsn : look (exec .rdsn (idle [got partB, got partAC])) (fun t => (t.err, serialNumber t)) =
    some (.none, 0x123456789ABCDEF0) := by decide +kernel

/-- V66 for RDSN: the check of the last group fails, nothing is committed. -/
theorem test_rdsn_all_or_nothing :
    look (exec .rdsn (idle [got partB, got [0xDE, 0xF0, 0x2B, 0x12, 0x34, 0x36]]))
      (fun t => (t.err, t.sna, t.snb, t.snc)) = some (.serialNumber, 0, 0, 0) := by decide +kernel

/-- V29. -/
theorem test_reload : look (exec .reload { idle [got [0xC3]] with uvalid := false })
    (fun t => (t.ureg, t.uvalid)) = some (0xC3, true) := by decide

/-- V29b: `notReady` is a failure here. -/
theorem test_reload_not_ready : look (exec .reload { idle [notYet] with uvalid := false })
    (fun t => (t.err, t.uvalid, t.lastres)) = some (.registerRead, false, 0x01) := by decide

/-- V28. -/
theorem test_wrreg : look (exec (.wrreg 0x83) (idle [sent])) (fun t => (t.uvalid, t.ureg, t.trace)) =
    some (false, 0x02, [.sendByte 0x00E6 0x83 (.ok [])]) := by decide

/-- V28b. -/
theorem test_wrreg_fails : look (exec (.wrreg 0x83) (idle [hard 0x02]))
    (fun t => (t.err, t.uvalid, t.lastres)) = some (.registerWrite, false, 0x02) := by decide

/-- V20: the written byte, and that `UREG` does not take it. -/
theorem test_setres : look (exec (.setres true true) (idle [sent])) (fun t => (t.trace, statusWord t, t.ureg)) =
    some ([.sendByte 0x00E6 0x83 (.ok [])], 0x000A, 0x02) := by decide

/-- V24: bits 6 to 1 are written back as read. -/
theorem test_setres_keeps_middle_bits :
    look (exec (.setres false false) { idle [sent] with ureg := 0xFF }) (·.trace) =
      some [.sendByte 0x00E6 0x7E (.ok [])] := by decide

/-- V27. -/
theorem test_setheat : look (exec (.setheat true) (idle [sent])) (fun t => (t.trace, t.uvalid)) =
    some ([.sendByte 0x00E6 0x06 (.ok [])], false) := by decide

/-- V27d. -/
theorem test_setheat_writes_nothing :
    look (exec (.setheat false) (idle [])) (fun t => (t.trace, t.uvalid, t.err)) =
      some ([], true, .none) := by decide

/-- 95_test_vectors section 3: `0x82` gives 2. -/
theorem test_getrescode : look (exec .getrescode { fresh [] with ureg := 0x82 }) (·.result) = some 2 := by
  decide

/-- V2C. -/
theorem test_getres_t : look (exec .getresT { idle [] with ureg := 0x82 }) (·.result) = some 13 := by decide

/-- V2E. -/
theorem test_getres_t_reload_fails :
    look (exec .getresT { idle [hard 0x02] with uvalid := false, result := 9 })
      (fun t => (t.err, t.result)) = some (.registerRead, 0) := by decide

/-- V2C. -/
theorem test_getres_rh : look (exec .getresRh { idle [] with ureg := 0x82 }) (·.result) = some 10 := by decide

/-- V2F: the getter reloads. -/
theorem test_getct_t : look (exec .getctT { idle [got [0x83]] with uvalid := false })
    (fun t => (t.result, t.ureg)) = some (7, 0x83) := by decide

/-- V2B, typical column. -/
theorem test_getct_rh : look (exec .getctRh { idle [] with ureg := 0x03, typ := true }) (·.result) = some 2 := by
  decide

/-- V2G. -/
theorem test_sethold : look (exec (.sethold false) (idle [])) statusWord = some 0x0006 := by decide

/-- V74. -/
theorem test_settyp : look (exec (.settyp true) { fresh [] with hold := true }) statusWord = some 0x0018 := by
  decide

/-- V30. -/
theorem test_meas_t : look (exec .measT (idle [sent, got [0x68, 0x38, 0x1E]]))
    (fun t => (t.err, t.result)) = some (.none, 161784800) := by decide +kernel

/-- V36: status `01` with a right CRC, three times. -/
theorem test_meas_t_bad_status :
    look (exec .measT (idle [sent, got [0x4E, 0x85, 0x6B], sent, got [0x4E, 0x85, 0x6B], sent,
      got [0x4E, 0x85, 0x6B], sent])) (fun t => (t.err, t.result, t.replies)) =
      some (.measurement, 0x639C0000, [sent]) := by decide

/-- V42. -/
theorem test_meas_rh_polls :
    look (exec .measRh { idle [sent, notYet, notYet, got [0x7C, 0x82, 0x97]] with hold := false })
      (fun t => (t.result, t.trace.countP (· == .delay 16))) = some (359078400, 2) := by decide +kernel

/-- V49b: the clamp below. -/
theorem test_meas_rh_clamps : look (exec .measRh (idle [sent, got [0x00, 0x02, 0x62]]))
    (fun t => (t.err, t.result)) = some (.none, 0) := by decide +kernel

/-- V33. -/
theorem test_meas_rhc :
    look (exec .measRhc (idle [sent, got [0x63, 0x50, 0x06], sent, got [0x7C, 0x82, 0x97]]))
      (fun t => (t.seq.tlatch, t.result)) = some (139714368, 362697244) := by decide +kernel

/-- V33b: the floor of a negative product. -/
theorem test_meas_rhc_floor :
    look (exec .measRhc { idle [sent, got [0x63, 0x50, 0x06], sent, got [0x7C, 0x82, 0x97]] with
      params := { params with tempCoef := 150 } }) (·.result) = some 355459555 := by decide +kernel

/-- V11h. -/
theorem test_crc8 : look (exec .crc8 { fresh [] with payload := 0x0000683A }) (·.result) = some 0x7C := by decide +kernel

/-- V18: all 32 bits count. -/
theorem test_crc8_full_width :
    look (exec .crc8 { fresh [] with payload := 0x56789ABC }) (·.result) = some 0xCD := by decide +kernel

/-- V11c. -/
theorem test_chkcrc : look (exec (.chkcrc 0x7C) { fresh [] with payload := 0x0000683A }) (·.result) = some 1 := by
  decide +kernel

/-- V11e. -/
theorem test_chkcrc_rejects :
    look (exec (.chkcrc 0x7C) { fresh [] with payload := 0x0000683B }) (·.result) = some 0 := by decide +kernel

/-- P6: the largest word. -/
theorem test_cvt_t : look (exec .cvtT { fresh [] with payload := 0x0000FFFF })
    (fun t => (t.result, resultC t)) = some (0x3256BB5C, 12886) := by decide

/-- V34's value: the word 0. -/
theorem test_cvt_t_zero : look (exec .cvtT (fresh [])) (·.result) = some 0xEDB30000 := by decide

/-- P6: the clamp above. -/
theorem test_cvt_rh : look (exec .cvtRh { fresh [] with payload := 0x0000FFFF }) (·.result) =
    some 0x27100000 := by decide

/-- V70: the precondition, and that `RESULT` keeps its value. -/
theorem test_not_begun : look (exec .measT (fresh [])) (fun t => (statusWord t, t.result)) =
    some (0x0700, 0) := by decide

/-! ### Wire commands: one transport call each -/

/-- V30's first call. -/
theorem test_w_meas_t_hold : look (exec .wMeasTHold (at' 0x20 .idle [.attempts .t, .resultT] [sent]))
    (fun t => (t.seq.mst, t.trace)) = some (.holdWait, [.send 0x00E3 (.ok [])]) := by decide

/-- V39's last call. -/
theorem test_w_meas_t_hold_exhausts :
    look (exec .wMeasTHold { at' 0x20 .holdWait [.attempts .t, .resultT] [got [0x68, 0x38, 0x1F]] with
      seq := { (at' 0x20 .holdWait [.attempts .t, .resultT] []).seq with att := 3 } })
      (fun t => (t.err, t.busy, t.result)) = some (.measurement, false, 0x639C0000) := by decide +kernel

/-- V35's second call: a frame of the other kind, so attempt 2 starts. -/
theorem test_w_meas_rh_hold :
    look (exec .wMeasRhHold (at' 0x21 .holdWait [.attempts .rh, .resultRh] [got [0x00, 0x00, 0x00]]))
      (fun t => (t.seq.mst, t.seq.att, t.busy)) = some (.retry, 2, true) := by decide

/-- V44's second call: a delay, and the poll goes on. -/
theorem test_w_meas_t_nohold :
    look (exec .wMeasTNohold { at' 0x20 .pollWait [.attempts .t, .resultT] [notYet] with hold := false })
      (fun t => (t.seq.mst, t.trace)) =
      some (.pollWait, [.recv 0x00F3 3 (.notReady 1), .delay 50]) := by decide

/-- V42's last call. -/
theorem test_w_meas_rh_nohold :
    look (exec .wMeasRhNohold
      { at' 0x21 .pollWait [.attempts .rh, .resultRh] [got [0x7C, 0x82, 0x97]] with hold := false })
      (fun t => (t.err, t.result)) = some (.none, 359078400) := by decide +kernel

/-- V63's only call. -/
theorem test_w_soft_reset : look (exec .wSoftReset (at' 0x02 .idle doReset [hard 0x02]))
    (fun t => (t.err, t.uvalid, t.lastres)) = some (.reset, false, 0x02) := by decide

/-- V28's only call. -/
theorem test_w_write_ureg :
    look (exec .wWriteUreg { at' 0x11 .idle [.writeArg] [sent] with
      seq := { (at' 0x11 .idle [.writeArg] []).seq with arg := 0x83 } }) (fun t => (t.trace, t.uvalid)) =
      some ([.sendByte 0x00E6 0x83 (.ok [])], false) := by decide

/-- V29's only call. -/
theorem test_w_read_ureg : look (exec .wReadUreg { at' 0x10 .idle [.reload] [got [0xC3]] with uvalid := false })
    (fun t => (t.ureg, t.uvalid, t.busy)) = some (0xC3, true, false) := by decide

/-- V69's first call: part B is kept aside. -/
theorem test_w_read_snb : look (exec .wReadSnb (at' 0x03 .idle doReadSerial [got partB]))
    (fun t => (t.seq.snbtmp, t.snb, t.seq.phase)) = some (0x56789ABC, 0, [.readSnac]) := by decide +kernel

/-- V67's last call, for RDSN. -/
theorem test_w_read_snac : look (exec .wReadSnac (at' 0x03 .idle [.readSnac] [hard 0x04]))
    (fun t => (t.err, t.lastres, t.sna)) = some (.serialNumber, 0x04, 0) := by decide

/-! ### Steps -/

/-- The command word is written, and the operation runs in that step. -/
theorem test_step_command : look (step { fresh [] with payload := 0xDC, host := [.write 0 0x3000, .read 3] })
    (fun t => (t.cmd, t.result, t.host)) = some (0x3000, 0x79, [.read 3]) := by decide +kernel

/-- V76: a reserved operand bit. -/
theorem test_step_illegal : look (step { fresh [] with result := 124, host := [.write 0 0x2001] })
    (fun t => (statusWord t, t.result)) = some (0x0600, 124) := by decide

/-- A placed host word and a placed wire code are what the next step runs. -/
theorem test_placed_words_run :
    look (step (State.reset.withFetchWord 16 0x1C01)) statusWord = some 0x0008 ∧
    look (step ({ State.reset with replies := [got [0xC3]] }.withFetchWord 8 0xE7)) (·.ureg) = some 0xC3 := by
  decide

/-! ### Concrete states that meet the hypotheses of the statements, each under the statement's name -/

/-- A failing answer, at the smallest and at the largest code. -/
theorem witness_failing_answers : FailsWith (.notReady 0x01) 0x01 ∧ FailsWith (.hardError 0xFF) 0xFF := by
  refine ⟨⟨.inl rfl, by decide⟩, ⟨.inr rfl, by decide⟩⟩

theorem witness_DecodedWordsAreLegal :
    decodeHost 0x0100 = .ok (.begin false) ∧ decodeHost 0x3300 = .ok .cvtRh := by decide

/-- The high half of the value written does not count. -/
theorem witness_StepRunsCommandWord :
    { fresh [] with host := [.write 0 0xFFFF1000] }.host = .write 0 0xFFFF1000 :: [] ∧
    decodeTableWord 16 ((0xFFFF1000#32).toNat % 65536) = some .reload ∧ wireOf .reload = none := by decide

theorem witness_StepRunsWireCommand :
    (at' 0x03 .idle doReadSerial []).host = [] ∧
    pendingCall (at' 0x03 .idle doReadSerial []) = some (.recv .readSnb 8) ∧
    { at' 0x20 .idle [.attempts .t] [] with host := [.await] }.host = .await :: [] ∧
    pendingCall { at' 0x20 .idle [.attempts .t] [] with host := [.await] } =
      some (.send .measTHold) := by decide

theorem witness_IllegalWordEndsWithSix :
    { fresh [] with host := [.write 0 0x2001] }.host = .write 0 0x2001 :: [] ∧
    (fresh []).busy = false ∧ wordLegal ((0x2001#32).setWidth 16) = false ∧
    wordLegal ((0xFF00#32).setWidth 16) = false ∧ wordLegal ((0x0000#32).setWidth 16) = false := by decide

theorem witness_NotBegunEndsWithSeven :
    needsBegun .measT = true ∧ needsBegun (.wrreg 0xFF) = true ∧ (fresh []).busy = false ∧
    (fresh []).begun = false := by decide

theorem witness_WriteWhileBusyRefused :
    (at' 0x20 .idle [.attempts .t] []).busy = true ∧ wireOf .crc8 = none ∧
    { at' 0x20 .idle [.attempts .t] [] with host := [.write 0 0] }.host = .write 0 0 :: [] ∧
    { at' 0x20 .idle [.attempts .t] [] with host := [.write 1 7] }.host = .write 1 7 :: [] := by decide

/-- Reads at the first, the last and the first absent index, and of `STATUS` while busy; writes. -/
theorem witness_HostRegisterAccess :
    { fresh [] with host := [.read 0] }.host = .read 0 :: [] ∧
    { fresh [] with host := [.read 9] }.host = .read 9 :: [] ∧ (fresh []).busy = false ∧
    { at' 0x20 .idle [.attempts .t] [] with host := [.read 2] }.host = .read 2 :: [] ∧
    { at' 0x20 .idle [.attempts .t] [] with host := [.read 10] }.host = .read 10 :: [] ∧
    { fresh [] with host := [.write 1 0xFFFFFFFF] }.host = .write 1 0xFFFFFFFF :: [] ∧
    { fresh [] with host := [.write 2 1] }.host = .write 2 1 :: [] ∧
    { fresh [] with host := [.write 10 1] }.host = .write 10 1 :: [] := by decide

theorem witness_RegisterFileView : 10 ≤ 10 := by decide

theorem witness_CrcDetectsBitFlips : 0 < 16 ∧ 15 < 16 ∧ 0 < 8 ∧ 7 < 8 := by decide

theorem witness_Crc8Result : (fresh []).busy = false ∧ (0x01 : Byte) ≠ 0 := by decide

theorem witness_ChkcrcResult : (fresh []).busy = false := by decide

theorem witness_CvtTResult : (fresh []).busy = false := by decide

/-- The words at which the clauses meet. -/
theorem witness_CvtRhResult :
    (fresh []).busy = false ∧ (3145 ≤ 3145) ∧ ¬ (3146 ≤ 3145) ∧ ¬ (55575 ≤ 55574) ∧ (55575 ≤ 55575) := by
  decide

theorem witness_ConverterRanges : (0xFFFE#16).toNat < (0xFFFF#16).toNat := by decide

theorem witness_CompensateFormula : (163840000 : Int) = 163840000 := by decide

theorem witness_GetrescodeResult : (fresh []).busy = false := by decide

theorem witness_ReloadResult :
    (idle []).busy = false ∧ (idle []).begun = true ∧ (idle []).uvalid = true ∧
    { idle [got [0xC3]] with uvalid := false }.replies = some (.ok [0xC3]) :: [] ∧
    { idle [notYet] with uvalid := false }.replies = some (.notReady 0x01) :: [] := by decide

theorem witness_WrregResult :
    (idle [sent]).busy = false ∧ (idle [sent]).begun = true ∧ (idle [sent]).replies = some (.ok []) :: [] ∧
    (idle [hard 0xFF]).replies = some (.hardError 0xFF) :: [] := by decide

/-- Each clause of SETRES: the code matches, a write, a failing write, a failing reload. -/
theorem witness_SetresResult :
    (idle []).busy = false ∧ (idle []).begun = true ∧ (idle []).uvalid = true ∧ (idle []).ureg = 0x02 ∧
    ((0x02#8).getLsbD 7 = false ∧ (0x02#8).getLsbD 0 = false) ∧
    (idle []).replies = reloadReplies (idle []) 0x02 ++ [] ∧
    ¬ ((0x02#8).getLsbD 7 = true ∧ (0x02#8).getLsbD 0 = true) ∧
    (idle [sent]).replies = reloadReplies (idle [sent]) 0x02 ++ some (.ok []) :: [] ∧
    (idle [hard 0x06]).replies = reloadReplies (idle [hard 0x06]) 0x02 ++ some (.hardError 0x06) :: [] ∧
    { idle [hard 0x05] with uvalid := false }.replies = some (.hardError 0x05) :: [] ∧
    { idle [got [0x81]] with uvalid := false }.replies =
      reloadReplies { idle [got [0x81]] with uvalid := false } 0x81 ++ [] := by decide

theorem witness_SetheatResult :
    (idle []).busy = false ∧ (idle []).begun = true ∧ (0x02#8).getLsbD 2 = false ∧
    (idle []).replies = reloadReplies (idle []) 0x02 ++ [] ∧ (0x02#8).getLsbD 2 ≠ true ∧
    (idle [sent]).replies = reloadReplies (idle [sent]) 0x02 ++ some (.ok []) :: [] ∧
    (idle [hard 0x06]).replies = reloadReplies (idle [hard 0x06]) 0x02 ++ some (.hardError 0x06) :: [] ∧
    { idle [hard 0x05] with uvalid := false }.replies = some (.hardError 0x05) :: [] := by decide

theorem witness_SetresWritesOnce :
    (idle []).busy = false ∧ (idle []).begun = true ∧ (idle []).uvalid = true ∧
    ¬ ((idle []).ureg.getLsbD 7 = true ∧ (idle []).ureg.getLsbD 0 = true) ∧
    ((0x83#8).getLsbD 7 = true ∧ (0x83#8).getLsbD 0 = true) ∧
    (idle [sent, got [0x83]]).replies = some (.ok []) :: some (.ok [0x83]) :: [] := by decide

theorem witness_SetheatWritesOnce :
    (idle []).busy = false ∧ (idle []).begun = true ∧ (idle []).uvalid = true ∧
    (idle []).ureg.getLsbD 2 ≠ true ∧ (0x06#8).getLsbD 2 = true ∧
    (idle [sent, got [0x06]]).replies = some (.ok []) :: some (.ok [0x06]) :: [] := by decide

/-- A valid shadow, and a reload that reads each of the four codes; a failing reload. -/
theorem witness_GetresResult :
    (idle []).busy = false ∧ (idle []).begun = true ∧ (idle []).ureg = 0x02 ∧
    (idle []).replies = reloadReplies (idle []) 0x02 ++ [] ∧
    (∀ u ∈ [0x02#8, 0x03#8, 0x82#8, 0x83#8],
      { idle [got [u]] with uvalid := false }.replies =
        reloadReplies { idle [got [u]] with uvalid := false } u ++ []) ∧
    { idle [hard 0x02] with uvalid := false }.replies = some (.hardError 0x02) :: [] := by decide

theorem witness_GetctResult :
    (idle []).busy = false ∧ (idle []).begun = true ∧
    { idle [got [0x83]] with uvalid := false }.replies =
      reloadReplies { idle [got [0x83]] with uvalid := false } 0x83 ++ [] ∧
    { idle [hard 0x02] with uvalid := false }.replies = some (.hardError 0x02) :: [] := by decide

theorem witness_ModeFlagsWritten : (fresh []).busy = false := by decide

theorem witness_ResetResult :
    (idle []).busy = false ∧ (idle []).begun = true ∧
    (idle [hard 0x02]).replies = some (.hardError 0x02) :: [] ∧
    (idle [sent, hard 0x03]).replies = some (.ok []) :: some (.hardError 0x03) :: [] ∧
    (idle [sent, got [0x02]]).replies = some (.ok []) :: some (.ok [0x02]) :: [] := by decide

theorem witness_RdsnResult :
    (idle []).busy = false ∧ (idle []).begun = true ∧ partB.length = 8 ∧ partAC.length = 6 ∧
    parseSnb partB = some 0x56789ABC ∧ parseSnac partAC = some (0xDEF0, 0x1234) ∧
    parseSnb [0x56, 0xD8, 0x78, 0x41, 0x9A, 0xE3, 0xBC, 0xC2] = none ∧
    parseSnac [0xDE, 0xF0, 0x2B, 0x12, 0x34, 0x36] = none ∧
    (idle [got partB, got partAC]).replies = some (.ok partB) :: some (.ok partAC) :: [] ∧
    (idle [hard 0x04]).replies = some (.hardError 0x04) :: [] ∧
    (idle [got partB, hard 0x04]).replies = some (.ok partB) :: some (.hardError 0x04) :: [] := by
  decide +kernel

theorem witness_FramesParsed : (0x85#8).getLsbD 0 = true := by decide

/-- Both cases of the heater write: reset value `0x02`, and `0x06` with bit 2 set. -/
theorem witness_BeginSucceeds :
    (fresh []).busy = false ∧ partB.length = 8 ∧ partAC.length = 6 ∧
    parseSnb partB = some 0x56789ABC ∧ parseSnac partAC = some (0xDEF0, 0x1234) ∧
    (fresh [sent, got [0x02], got partB, got partAC]).replies =
      some (.ok []) :: some (.ok [0x02]) ::
        ((if (0x02#8).getLsbD 2 then [some (.ok [])] else []) ++
          some (.ok partB) :: some (.ok partAC) :: []) ∧
    (freshHot []).busy = false ∧ (freshHot []).params.uregResetValue = 0x06 ∧
    (freshHot [sent, got [0x06], sent, got partB, got partAC]).replies =
      some (.ok []) :: some (.ok [0x06]) ::
        ((if (0x06#8).getLsbD 2 then [some (.ok [])] else []) ++
          some (.ok partB) :: some (.ok partAC) :: []) := by decide +kernel

theorem witness_BeginFailsEarly :
    (fresh []).busy = false ∧ (fresh [hard 0x02]).replies = some (.hardError 0x02) :: [] ∧
    (fresh [sent, hard 0x03]).replies = some (.ok []) :: some (.hardError 0x03) :: [] ∧
    (0x42 : Byte) ≠ (fresh []).params.uregResetValue ∧
    (fresh [sent, got [0x42]]).replies = some (.ok []) :: some (.ok [0x42]) :: [] ∧
    (freshHot []).busy = false ∧ (freshHot []).params.uregResetValue = 0x06 ∧ (0x06#8).getLsbD 2 = true ∧
    (freshHot [sent, got [0x06], hard 0x02]).replies =
      some (.ok []) :: some (.ok [0x06]) :: some (.hardError 0x02) :: [] := by decide

/-- The four clauses, the first with and without the heater write. -/
theorem witness_BeginFailsInSerialRead :
    (fresh []).busy = false ∧ (fresh []).params.uregResetValue = 0x02 ∧ (0x02#8).getLsbD 2 = false ∧
    (fresh [sent, got [0x02], hard 0x04]).replies =
      [some (.ok []), some (.ok [0x02])] ++ some (.hardError 0x04) :: [] ∧
    (freshHot []).busy = false ∧ (freshHot []).params.uregResetValue = 0x06 ∧ (0x06#8).getLsbD 2 = true ∧
    (freshHot [sent, got [0x06], sent, hard 0x04]).replies =
      [some (.ok []), some (.ok [0x06]), some (.ok [])] ++ some (.hardError 0x04) :: [] ∧
    parseSnb [0x56, 0xD8, 0x78, 0x41, 0x9A, 0xE3, 0xBC, 0xC2] = none ∧
    (fresh [sent, got [0x02], got [0x56, 0xD8, 0x78, 0x41, 0x9A, 0xE3, 0xBC, 0xC2]]).replies =
      [some (.ok []), some (.ok [0x02])] ++
        some (.ok [0x56, 0xD8, 0x78, 0x41, 0x9A, 0xE3, 0xBC, 0xC2]) :: [] ∧
    partB.length = 8 ∧ parseSnb partB = some 0x56789ABC ∧
    (fresh [sent, got [0x02], got partB, hard 0x04]).replies =
      [some (.ok []), some (.ok [0x02])] ++ some (.ok partB) :: some (.hardError 0x04) :: [] ∧
    parseSnac [0xDE, 0xF0, 0x2B, 0x12, 0x34, 0x36] = none ∧
    (fresh [sent, got [0x02], got partB, got [0xDE, 0xF0, 0x2B, 0x12, 0x34, 0x36]]).replies =
      [some (.ok []), some (.ok [0x02])] ++
        some (.ok partB) :: some (.ok [0xDE, 0xF0, 0x2B, 0x12, 0x34, 0x36]) :: [] := by decide +kernel

/-- A failed send, a corrupt frame after polls, a good frame: on the hold path and on the no-hold path. -/
theorem witness_MeasurementSucceeds :
    EndsWith .t true [.sendFails (.hardError 0x02), .received [] (.notReady 0x01),
      .received [] (.ok [0x68, 0x38, 0x1E])] [0x68, 0x38, 0x1E] ∧
    EndsWith .rh false [.received [0x01, 0x02] (.ok [0x00, 0x00, 0x00]),
      .received [0x01] (.ok [0x7C, 0x82, 0x97])] [0x7C, 0x82, 0x97] := by
  refine ⟨⟨[.sendFails (.hardError 0x02), .received [] (.notReady 0x01)], [], rfl, by decide, ?_,
    by decide +kernel, by decide +kernel⟩,
    ⟨[.received [0x01, 0x02] (.ok [0x00, 0x00, 0x00])], [0x01], rfl, by decide, ?_,
    by decide +kernel, by decide +kernel⟩⟩ <;> simp only [AllBad] <;> decide +kernel

/-- The state and the oracle of the successes: with a valid shadow and with the entry's reload. -/
theorem witness_MeasurementSucceeds_state :
    (idle []).busy = false ∧ (idle []).begun = true ∧ (idle []).ureg = 0x02 ∧
    (idle [sent, got [0x68, 0x38, 0x1E]]).replies =
      measureReplies (idle []) 0x02 [.received [] (.ok [0x68, 0x38, 0x1E])] ++ [] ∧
    { idle [got [0x83], sent, got [0x68, 0x38, 0x1E]] with uvalid := false }.replies =
      measureReplies { idle [] with uvalid := false } 0x83 [.received [] (.ok [0x68, 0x38, 0x1E])] ++
        [] := by decide

theorem witness_MeasRhcSucceeds :
    EndsWith .t true [.received [] (.ok [0x63, 0x50, 0x06])] [0x63, 0x50, 0x06] ∧
    EndsWith .rh true [.received [] (.ok [0x7C, 0x82, 0x97])] [0x7C, 0x82, 0x97] ∧
    (idle [sent, got [0x63, 0x50, 0x06], sent, got [0x7C, 0x82, 0x97]]).replies =
      measureReplies (idle []) 0x02 [.received [] (.ok [0x63, 0x50, 0x06])] ++
        [Attempt.received [] (.ok [0x7C, 0x82, 0x97])].flatMap attemptReplies ++ [] := by
  refine ⟨⟨[], [], rfl, by decide, ?_, by decide +kernel, by decide +kernel⟩,
    ⟨[], [], rfl, by decide, ?_, by decide +kernel, by decide +kernel⟩, by decide⟩ <;>
    simp [AllBad]

theorem witness_MeasurementExhausted :
    (idle []).busy = false ∧ (idle []).begun = true ∧
    (List.replicate 3 (Attempt.sendFails (.hardError 0x02))).length = 3 ∧
    (idle [hard 0x02, hard 0x02, hard 0x02]).replies =
      measureReplies (idle []) 0x02 (List.replicate 3 (.sendFails (.hardError 0x02))) ++ [] ∧
    AllBad .t true (List.replicate 3 (.sendFails (.hardError 0x02))) ∧
    AllBad .rh true (List.replicate 3 (.sendFails (.hardError 0x02))) := by
  simp only [AllBad]; decide

theorem witness_MeasRhcHumidityExhausted :
    EndsWith .t true [.received [] (.ok [0x63, 0x50, 0x06])] [0x63, 0x50, 0x06] ∧
    AllBad .rh true (List.replicate 3 (.sendFails (.hardError 0x02))) ∧
    (idle [sent, got [0x63, 0x50, 0x06], hard 0x02, hard 0x02, hard 0x02]).replies =
      measureReplies (idle []) 0x02 [.received [] (.ok [0x63, 0x50, 0x06])] ++
        (List.replicate 3 (Attempt.sendFails (.hardError 0x02))).flatMap attemptReplies ++ [] := by
  refine ⟨⟨[], [], rfl, by decide, ?_, by decide +kernel, by decide +kernel⟩, ?_, by decide⟩ <;>
    simp only [AllBad] <;> decide

theorem witness_MeasurementEntryFails :
    (idle []).busy = false ∧ (idle []).begun = true ∧
    { idle [hard 0x02] with uvalid := false }.uvalid = false ∧
    { idle [hard 0x02] with uvalid := false }.replies = some (.hardError 0x02) :: [] := by decide

/-- A success and a failure; for MEAS_RHC a success, a failed temperature and a failed humidity. -/
theorem witness_SendsCountAttempts :
    look (exec .measT (idle [hard 0x02, hard 0x02, hard 0x02])) (fun t => (t.busy, t.err)) =
      some (false, .measurement) ∧
    look (exec .measRh (idle [sent, got [0x7C, 0x82, 0x97]])) (fun t => (t.busy, t.err)) =
      some (false, .none) ∧
    look (exec .measRhc (idle [sent, got [0x68, 0x38, 0x1E], sent, got [0x7C, 0x82, 0x97]]))
      (fun t => (t.busy, t.err)) = some (false, .none) ∧
    look (exec .measRhc (idle [hard 0x02, hard 0x02, hard 0x02])) (fun t => (t.busy, t.err)) =
      some (false, .measurement) ∧
    look (exec .measRhc (idle [sent, got [0x68, 0x38, 0x1E], hard 0x02, hard 0x02, hard 0x02]))
      (fun t => (t.busy, t.err)) = some (false, .measurement) := by decide +kernel

theorem witness_PollsForever :
    let s : State := { at' 0x20 .pollWait [.attempts .t, .resultT] [] with
      hold := false, after := some (.notReady 0x01) }
    s.host = [] ∧ s.busy = true ∧ s.seq.phase = .attempts .t :: [.resultT] ∧ s.seq.mst = .pollWait ∧
    s.replies = [] ∧ s.after = some (.notReady 0x01) ∧ (0x01 : Byte) ≠ 0 := by decide

theorem witness_WireReadUreg :
    let s : State := { at' 0x10 .idle [.reload] [got [0xC3]] with uvalid := false }
    s.busy = true ∧ s.uvalid = false ∧ s.seq.phase = .reload :: [] ∧
    s.replies = some (.ok [0xC3]) :: [] ∧
    { s with replies := [notYet] }.replies = some (.notReady 0x01) :: [] := by decide

/-- Each of the three lines that write the register. -/
theorem witness_WireWriteUreg :
    (at' 0x11 .idle [.writeArg] [sent]).busy = true ∧
    (at' 0x11 .idle [.writeArg] [sent]).seq.phase = .writeArg :: [] ∧
    (at' 0x11 .idle [.writeArg] [sent]).replies = some (.ok []) :: [] ∧
    (at' 0x11 .idle [.writeArg] [hard 0x02]).replies = some (.hardError 0x02) :: [] ∧
    (at' 0x12 .idle [.changeResolution true true] [sent]).seq.phase = .changeResolution true true :: [] ∧
    ¬ ((idle []).ureg.getLsbD 7 = true ∧ (idle []).ureg.getLsbD 0 = true) ∧
    (at' 0x13 .idle [.changeHeater true] [sent]).seq.phase = .changeHeater true :: [] ∧
    (idle []).ureg.getLsbD 2 ≠ true := by decide

theorem witness_WireSoftReset :
    (at' 0x02 .idle doReset [sent]).busy = true ∧
    (at' 0x02 .idle doReset [sent]).seq.phase = .sendReset :: [.settleDelay, .reload, .checkReset] ∧
    (at' 0x02 .idle doReset [sent]).replies = some (.ok []) :: [] ∧
    (at' 0x02 .idle doReset [hard 0x02]).replies = some (.hardError 0x02) :: [] := by decide

theorem witness_WireReadSerial :
    (at' 0x03 .idle doReadSerial [got partB]).busy = true ∧
    (at' 0x03 .idle doReadSerial [got partB]).seq.phase = .readSnb :: [.readSnac] ∧
    partB.length = 8 ∧ parseSnb partB = some 0x56789ABC ∧
    (at' 0x03 .idle doReadSerial [got partB]).replies = some (.ok partB) :: [] ∧
    parseSnb [0x56, 0xD8, 0x78, 0x41, 0x9A, 0xE3, 0xBC, 0xC2] = none ∧
    (at' 0x03 .idle doReadSerial [hard 0x04]).replies = some (.hardError 0x04) :: [] ∧
    (at' 0x03 .idle [.readSnac] [got partAC]).seq.phase = .readSnac :: [] ∧
    partAC.length = 6 ∧ parseSnac partAC = some (0xDEF0, 0x1234) ∧
    (at' 0x03 .idle [.readSnac] [got partAC]).replies = some (.ok partAC) :: [] ∧
    parseSnac [0xDE, 0xF0, 0x2B, 0x12, 0x34, 0x36] = none ∧
    (at' 0x03 .idle [.readSnac] [hard 0x04]).replies = some (.hardError 0x04) :: [] := by decide +kernel

/-- At the first attempt and at a retry, with attempts left (2) and with none (3). -/
theorem witness_WireMeasureSend :
    let s := at' 0x20 .idle [.attempts .t, .resultT] [sent]
    s.busy = true ∧ s.seq.phase = .attempts .t :: [.resultT] ∧ s.seq.mst = .idle ∧
    s.replies = some (.ok []) :: [] ∧ { s with replies := [hard 0x02] }.replies = some (.hardError 0x02) :: [] ∧
    (at' 0x20 .retry [.attempts .t] []).seq.mst = .retry ∧ 2 < 3 ∧ 3 ≤ 3 := by decide

theorem witness_WireMeasureFrame :
    let s := at' 0x20 .holdWait [.attempts .t, .resultT] [got [0x68, 0x38, 0x1E]]
    s.busy = true ∧ s.seq.phase = .attempts .t :: [.resultT] ∧ s.seq.mst = .holdWait ∧
    (at' 0x20 .pollWait [.attempts .t] []).seq.mst = .pollWait ∧
    [0x68, 0x38, 0x1E].length = 3 ∧ s.replies = some (.ok [0x68, 0x38, 0x1E]) :: [] ∧
    validMeas .t [0x68, 0x38, 0x1E] = true ∧ validMeas .t [0x68, 0x38, 0x1F] = false ∧
    s.seq.att < 3 ∧ 3 ≤ 3 := by decide +kernel

theorem witness_WireMeasureNoFrame :
    let s := at' 0x20 .pollWait [.attempts .t, .resultT] [notYet]
    s.busy = true ∧ s.seq.phase = .attempts .t :: [.resultT] ∧ s.seq.mst = .pollWait ∧
    s.replies = some (.notReady 0x01) :: [] ∧
    { s with replies := [hard 0x02] }.replies = some (.hardError 0x02) :: [] ∧
    (at' 0x20 .holdWait [.attempts .t] [notYet]).seq.mst = .holdWait ∧ s.seq.att < 3 ∧ 3 ≤ 3 := by decide

/-- A call that has not returned, with the oracle's entry and without; and a wire command out of turn. -/
theorem witness_WireWaitsOrRefused :
    let s := at' 0x20 .idle [.attempts .t] [none]
    pendingCall s = some (.send .measTHold) ∧ callWire (.send .measTHold) = .measTHold ∧
    s.replies = none :: [] ∧ { s with replies := [] }.replies = [] ∧ { s with replies := [] }.after = none ∧
    callWire (.send .measTHold) ≠ .readSnb ∧ pendingCall (idle []) = none := by decide

/-- Reset meets the invariants, and a step from it answers a next state. -/
theorem witness_StepKeepsSequencer :
    SeqInv (fresh []) ∧ BoundsInv (fresh []) ∧
    look (step { fresh [] with host := [.write 0 0x1C01] }) (·.hold) = some true := by
  refine ⟨by simp only [SeqInv]; decide, by simp only [BoundsInv]; decide, by decide⟩

theorem witness_StepKeepsTraceLegal :
    TraceInv (fresh [sent]) ∧
    look (step { fresh [sent] with host := [.write 0 0x0101] }) (·.trace.length) = some 3 := by
  refine ⟨by simp only [TraceInv]; decide, by decide⟩

theorem witness_StepKeepsShadowCoherent :
    ShadowInv (fresh [sent, got [0x02]]) ∧
    look (step { fresh [sent, got [0x02]] with host := [.write 0 0x0101] })
      (fun t => (t.uvalid, shadowOf t.trace)) = some (true, some 0x02) := by
  refine ⟨by simp only [ShadowInv]; decide, by decide⟩

theorem witness_StepKeepsLastresCurrent :
    LastresInv (fresh [hard 0x07]) ∧
    look (step { fresh [hard 0x07] with host := [.write 0 0x0101] }) (·.lastres) = some 0x07 := by
  refine ⟨by simp only [LastresInv]; decide, by decide⟩

theorem witness_InstructionsLeaveInputs :
    look (exec .reload { idle [got [0xC3]] with uvalid := false }) (·.trace.length) = some 1 := by decide

/-- The second clause's second case: the identity is taken from two frames. -/
theorem witness_IdentityAllOrNothing :
    look (exec .reload (idle [])) (·.sna) = some 0 ∧ wireOf .rdsn = none ∧
    look (exec .rdsn (idle [got partB, got partAC])) (·.sna) = some 0x1234 := by decide +kernel

theorem witness_EndCodesByOperation :
    wireOf .measT = none ∧ look (exec .measT (fresh [])) (fun t => (t.busy, t.err)) =
      some (false, .notBegun) ∧
    look (exec .measT (idle [hard 0x02, hard 0x02, hard 0x02])) (fun t => (t.busy, t.err)) =
      some (false, .measurement) := by decide

theorem witness_ModesWrittenOnlyByTheirOperations :
    wireOf .reload = none ∧ look (exec .reload (idle [])) (·.begun) = some true ∧
    look (exec (.begin true) (fresh [sent, got [0x02], got partB, got partAC])) (·.begun) = some true ∧
    look (exec (.begin true) (fresh [hard 0x02])) (·.begun) = some false := by decide +kernel

theorem witness_BigStepEqualsSmallSteps :
    wireOf .measT = none ∧
    look (exec .measT (idle [sent, got [0x68, 0x38, 0x1E]])) (·.replies.length) = some 0 := by
  decide +kernel

end Sys2Proof.Tests
end

section
/-! PROOFS. The register file as the host reads it: the fields of `STATUS`, the serial number and the absent
indices (10_state R11, R12, R19). -/

namespace Sys2Proof.Machine

section views
variable (s : State)

/-! ### The fields of `STATUS` -/

/-- The five flags are the low five bits, one bit of the concatenation each (10_state R19). -/
theorem statusWord_flags :
    (statusWord s).getLsbD 0 = s.busy ∧ (statusWord s).getLsbD 1 = s.begun ∧
    (statusWord s).getLsbD 2 = s.uvalid ∧ (statusWord s).getLsbD 3 = s.hold ∧
    (statusWord s).getLsbD 4 = s.typ := by
  have fields : statusWord s = BitVec.cast (n := 4 + 4 + 3 + 1 + 1 + 1 + 1 + 1) rfl
      (0#4 ++ errCode s.err ++ 0#3 ++ BitVec.ofBool s.typ ++ BitVec.ofBool s.hold ++
        BitVec.ofBool s.uvalid ++ BitVec.ofBool s.begun ++ BitVec.ofBool s.busy) := rfl
  simp only [fields, BitVec.getLsbD_cast, BitVec.getLsbD_append]
  simp

/-- Above the five flags stand the two reserved fields and `ERR` between them (10_state R19). -/
theorem statusWord_extractLsb'_above_flags (i n : Nat) :
    (statusWord s).extractLsb' (5 + i) n = (0#4 ++ errCode s.err ++ 0#3).extractLsb' i n := by
  rw [statusWord]
  iterate 5 rw [BitVec.extractLsb'_append_eq_of_le (by omega)]
  congr 1
  omega

theorem statusWord_reservedLow : (statusWord s).extractLsb' 5 3 = 0 :=
  (statusWord_extractLsb'_above_flags s 0 3).trans BitVec.extractLsb'_append_eq_right

theorem statusWord_err : (statusWord s).extractLsb' 8 4 = errCode s.err := by
  rw [statusWord_extractLsb'_above_flags s 3 4, BitVec.extractLsb'_append_eq_of_le (by decide)]
  exact BitVec.extractLsb'_append_eq_right

theorem statusWord_reservedHigh : (statusWord s).extractLsb' 12 4 = 0 := by
  rw [statusWord_extractLsb'_above_flags s 7 4, BitVec.extractLsb'_append_eq_of_le (by decide)]
  exact BitVec.extractLsb'_append_eq_left

/-! ### The serial number -/

/-- `SN = SNA ‖ SNB ‖ SNC` (10_state R12): a bit below 16 is of `SNC`, below 48 of `SNB`, else of `SNA`. -/
theorem serialNumber_eq_append : serialNumber s = s.sna ++ s.snb ++ s.snc := by
  apply BitVec.eq_of_getLsbD_eq
  intro i hi
  rw [BitVec.getLsbD_append, BitVec.getLsbD_append, serialNumber]
  by_cases inSnc : i < 16
  · grind
  · by_cases inSnb : i - 16 < 32
    · grind
    · grind

/-- The source shifts twice, by 32 and then by 16 (10_state R12). -/
theorem serialNumber_eq_twoShifts :
    serialNumber s =
      ((s.sna.setWidth 64 <<< 32 ||| s.snb.setWidth 64) <<< 16) ||| s.snc.setWidth 64 := by
  rw [serialNumber, BitVec.shiftLeft_or_distrib, ← BitVec.shiftLeft_add]

theorem serialNumber_sna : (serialNumber s).extractLsb' 48 16 = s.sna := by
  rw [serialNumber_eq_append, BitVec.extractLsb'_append_eq_of_le (by decide)]
  exact BitVec.extractLsb'_append_eq_left

theorem serialNumber_snb : (serialNumber s).extractLsb' 16 32 = s.snb := by
  rw [serialNumber_eq_append, BitVec.extractLsb'_append_eq_of_le (by decide)]
  exact BitVec.extractLsb'_append_eq_right

theorem serialNumber_snc : (serialNumber s).extractLsb' 0 16 = s.snc := by
  rw [serialNumber_eq_append]
  exact BitVec.extractLsb'_append_eq_right

/-! ### Absent indices -/

theorem regValue_eq_zero_of_ten_le {i : Nat} (absent : 10 ≤ i) : regValue s i = 0 := by
  obtain ⟨k, rfl⟩ := Nat.exists_eq_add_of_le' absent
  rfl

end views

/-- Settles O10: the ten indices and the eight codes are the rows of their tables; `STATUS`, the serial
number and the absent indices are the lemmas above. -/
theorem registerFileView : Obligations.RegisterFileView := by
  refine ⟨fun s => ?_, rfl, rfl, rfl, rfl, rfl, rfl, rfl, rfl⟩
  obtain ⟨busy, begun, uvalid, hold, typ⟩ := statusWord_flags s
  exact ⟨rfl, rfl, rfl, rfl, rfl, rfl, rfl, rfl, rfl, rfl,
    fun _ absent => regValue_eq_zero_of_ten_le s absent,
    busy, begun, uvalid, hold, typ,
    statusWord_reservedLow s, statusWord_err s, statusWord_reservedHigh s,
    serialNumber_sna s, serialNumber_snb s, serialNumber_snc s, serialNumber_eq_twoShifts s⟩

end Sys2Proof.Machine
end

section
/-! PROOFS. CRC8 and CHKCRC (40_crc8 R103, R104): what their words decode to, and a host operation of one line
of pseudocode that makes no transport call. -/

namespace Sys2Proof.Machine

/-! ### Words from an opcode and an operand byte -/

@[simp] theorem opOf_append (op arg : Byte) : opOf (op ++ arg) = op :=
  BitVec.extractLsb'_append_eq_left

@[simp] theorem argOf_append (op arg : Byte) : argOf (op ++ arg) = arg :=
  BitVec.extractLsb'_append_eq_right

/-- With no operand bit in use, only the operand byte 0 is legal (30_encoding R89). -/
theorem withArg_none (arg : Byte) (i : Instr) :
    withArg 0x00 arg i = if arg = 0 then .ok i else .error .reservedArgument := by
  rw [withArg, show ~~~(0x00 : Byte) = BitVec.allOnes 8 from rfl, BitVec.and_allOnes]

/-- With all eight operand bits in use, every operand byte is legal (30_encoding R89). -/
theorem withArg_all (arg : Byte) (i : Instr) : withArg 0xFF arg i = .ok i := by
  rw [withArg, show ~~~(0xFF : Byte) = 0#8 from rfl, BitVec.and_zero]
  rfl

theorem decodeHost_opcode_crc8 (arg : Byte) :
    decodeHost (0x30#8 ++ arg) = withArg 0x00 arg .crc8 := by
  simp only [decodeHost, opOf_append, argOf_append]
  rfl

theorem decodeHost_opcode_chkcrc (c : Byte) :
    decodeHost (0x31#8 ++ c) = withArg 0xFF c (.chkcrc c) := by
  simp only [decodeHost, opOf_append, argOf_append]
  rfl

/-! ### A host operation of one line without a transport call -/

/-- An operation that needs no BEGIN and whose one line is done without a call completes whatever answers
the transport holds, and takes none of them (60_exceptions R203). -/
theorem exec_of_one_line {i : Instr} {m : Micro} {s t : State} (host : wireOf i = none)
    (free : needsBegun i = false) (oneLine : linesOf i = [m]) (idle : s.busy = false)
    (done : startLine m (accept (encode i) s) = .done t) : exec i s = .next (complete t) := by
  have runs : runLines [m] (accept (encode i) s) = complete t := by rw [runLines_done done, runLines_nil]
  have notBusy : (complete t).busy = false := finish_busy .none t
  rw [exec_hostOp host, oneLine, hostOp_runs idle (by simp [free]), runs, drain_idle notBusy]

/-- An accepted word whose one effect is a `RESULT` leaves the rest of the state as it was. -/
theorem complete_putResult_accept (v : Word32) (w : Word16) (s : State) :
    complete (putResult v (accept w s)) = ended w .none { s with result := v } := rfl

/-! ### The two lines of pseudocode -/

theorem checkCrc8_eq_true_iff (p : Word32) (c : Byte) : checkCrc8 p c = true ↔ crc8 p = c := beq_iff_eq

theorem startLine_resultCrc_accept (w : Word16) (s : State) :
    startLine .resultCrc (accept w s) =
      .done (putResult ((crc8 s.payload).setWidth 32) (accept w s)) := rfl

/-- CHKCRC compares with the operand byte latched from its own word (20_memory R55, 40_crc8 R104). -/
theorem startLine_resultCheck_accept (op c : Byte) (s : State) :
    startLine .resultCheck (accept (op ++ c) s) =
      .done (putResult (if crc8 s.payload = c then 1 else 0) (accept (op ++ c) s)) := by
  simp only [startLine, accept_payload, accept_seq_arg, argOf_append, checkCrc8_eq_true_iff]

/-! ### The operations -/

/-- Settles O15: CRC8 is its one line, and its opcode leaves no operand bit in use. -/
theorem crc8Result : Obligations.Crc8Result := by
  refine ⟨fun s idle => ?_, fun arg nonzero => ?_⟩
  · rw [exec_of_one_line rfl rfl rfl idle (startLine_resultCrc_accept _ s), complete_putResult_accept]
    rfl
  · rw [decodeHost_opcode_crc8, withArg_none, if_neg nonzero]

/-- Settles O16: CHKCRC is its one line, and its opcode has every operand bit in use. -/
theorem chkcrcResult : Obligations.ChkcrcResult := by
  intro s c idle
  refine ⟨by rw [decodeHost_opcode_chkcrc, withArg_all], ?_⟩
  rw [exec_of_one_line rfl rfl rfl idle (startLine_resultCheck_accept 0x31#8 c s),
    complete_putResult_accept]

end Sys2Proof.Machine
end

section
/-! PROOFS. The user-register cache: GETRESCODE and a repeated SETHEAT (41_register_cache R117 to R119). -/

namespace Sys2Proof.Machine

/-! ### GETRESCODE -/

theorem rescodeOf_toNat (u : Byte) :
    (rescodeOf u).toNat = 2 * (u.getLsbD 7).toNat + (u.getLsbD 0).toNat := by
  rw [rescodeOf, BitVec.toNat_append]
  cases u.getLsbD 7 <;> cases u.getLsbD 0 <;> rfl

theorem startLine_resultCode_accept (w : Word16) (s : State) :
    startLine .resultCode (accept w s) =
      .done (putResult ((rescodeOf s.ureg).setWidth 32) (accept w s)) := rfl

/-- Settles O21: GETRESCODE is its one line, and the two bits keep their value when extended to 32. -/
theorem getrescodeResult : Obligations.GetrescodeResult := by
  intro s idle
  refine ⟨_, exec_of_one_line rfl rfl rfl idle (startLine_resultCode_accept _ s), rfl, ?_⟩
  rw [complete_putResult_accept, ← rescodeOf_toNat]
  exact BitVec.toNat_setWidth_of_le (by decide)

/-! ### An operation at a transport call that is answered -/

/-- `s` with the block at the line `m`, `rest` after it, and the answers `rs` still to come. -/
def atLine (m : Micro) (rest : List Micro) (rs : List Reply) (s : State) : State :=
  { s with replies := rs, seq := { s.seq with phase := m :: rest } }

theorem callOf_atLine (m : Micro) (rest : List Micro) (rs : List Reply) (s : State) :
    callOf m (atLine m rest rs s) = callOf m s := by
  cases m <;> rfl

/-- A line that waits at a call takes the next answer, and the operation goes on after it. -/
theorem drain_runLines_of_wait {m : Micro} {rest : List Micro} {s : State} {c : Call} {a : Answer}
    (busy : s.busy = true) (waits : startLine m s = .wait s) (call : callOf m s = some c)
    (legal : answerLegal (callCount c) a = true) (rs : List Reply) :
    drain (some a :: rs) (runLines (m :: rest) s) =
      drain rs (afterLine m rest (answerLine m a (heard c a (atLine m rest rs s)))) := by
  have stillBusy : (runLines (m :: rest) s).busy = true := by rw [runLines_wait waits]; exact busy
  have stands : { runLines (m :: rest) s with replies := rs } = atLine m rest rs s := by
    rw [runLines_wait waits]; rfl
  have callThere : callOf m (atLine m rest rs s) = some c := by rw [callOf_atLine, call]
  rw [drain_answer stillBusy, stands, respond_of_line (s := atLine m rest rs s) a busy rfl callThere,
    deliver_of_legal legal]

/-! ### The lines of `DoSetHeater` -/

theorem startLine_reload_of_valid {s : State} (valid : s.uvalid = true) :
    startLine .reload s = .done s := if_pos valid

theorem startLine_reload_of_invalid {s : State} (invalid : s.uvalid = false) :
    startLine .reload s = .wait s := by simp [startLine, invalid]

theorem callOf_reload_of_invalid {s : State} (invalid : s.uvalid = false) :
    callOf .reload s = some (.recv .readUreg 1) := by simp [callOf, invalid]

/-- A register read that answers fills the shadow, and the next line follows (41_register_cache R111). -/
theorem afterLine_reload_ok (rest : List Micro) (b : Byte) (s : State) :
    afterLine .reload rest (answerLine .reload (.ok [b]) s) =
      runLines rest { s with ureg := b, uvalid := true } := rfl

theorem startLine_changeHeater_of_eq {s : State} {en : Bool} (same : heatOf s.ureg = en) :
    startLine (.changeHeater en) s = .done s := if_pos same

theorem startLine_changeHeater_of_ne {s : State} {en : Bool} (other : heatOf s.ureg ≠ en) :
    startLine (.changeHeater en) s = .wait s := if_neg other

theorem callOf_changeHeater_of_ne {s : State} {en : Bool} (other : heatOf s.ureg ≠ en) :
    callOf (.changeHeater en) s = some (.sendByte .writeUreg (withHeater s.ureg en)) := if_neg other

/-! ### SETHEAT -/

theorem exec_setheat {s : State} (idle : s.busy = false) (begun : s.begun = true) (en : Bool) :
    exec (.setheat en) s = .next (drain s.replies
      (runLines [.reload, .changeHeater en] (accept (encode (.setheat en)) s))) := by
  rw [exec_hostOp rfl, hostOp_runs idle fun _ => begun]
  rfl

/-- With a valid shadow that has the other heater bit, SETHEAT makes one write and empties the shadow
(41_register_cache R113, R117). -/
theorem exec_setheat_writes {s : State} {en : Bool} {rs : List Reply} (idle : s.busy = false)
    (begun : s.begun = true) (valid : s.uvalid = true) (other : heatOf s.ureg ≠ en)
    (taken : s.replies = some (.ok []) :: rs) :
    exec (.setheat en) s = .next (ended (encode (.setheat en)) .none { s with
      replies := rs, uvalid := false, lastres := 0
      trace := s.trace ++ [.sendByte 0x00E6 (withHeater s.ureg en) (.ok [])] }) := by
  let accepted := accept (encode (.setheat en)) s
  have shadowUsed : startLine .reload accepted = .done accepted := startLine_reload_of_valid valid
  have atWrite : startLine (.changeHeater en) accepted = .wait accepted :=
    startLine_changeHeater_of_ne other
  have write : callOf (.changeHeater en) accepted =
      some (.sendByte .writeUreg (withHeater s.ureg en)) := callOf_changeHeater_of_ne other
  rw [exec_setheat idle begun, taken, runLines_done shadowUsed,
    drain_runLines_of_wait rfl atWrite write rfl]
  exact congrArg _ (drain_idle rfl rs)

/-- With an empty shadow and a device whose register has the heater bit asked for, SETHEAT reads the
register and writes nothing (41_register_cache R111, R117). -/
theorem exec_setheat_reads {s : State} {en : Bool} {b : Byte} {rs : List Reply} (idle : s.busy = false)
    (begun : s.begun = true) (invalid : s.uvalid = false) (same : heatOf b = en)
    (answer : s.replies = some (.ok [b]) :: rs) :
    exec (.setheat en) s = .next (ended (encode (.setheat en)) .none { s with
      replies := rs, ureg := b, uvalid := true, lastres := 0
      trace := s.trace ++ [.recv 0x00E7 1 (.ok [b])]
      seq := { s.seq with frame := [b] } }) := by
  let accepted := accept (encode (.setheat en)) s
  have atRead : startLine .reload accepted = .wait accepted := startLine_reload_of_invalid invalid
  have read : callOf .reload accepted = some (.recv .readUreg 1) := callOf_reload_of_invalid invalid
  rw [exec_setheat idle begun, answer, drain_runLines_of_wait rfl atRead read rfl,
    afterLine_reload_ok, runLines_done (startLine_changeHeater_of_eq same), runLines_nil]
  exact congrArg _ (drain_idle rfl rs)

/-- Settles O60: the first call writes and empties the shadow, so the second reads the register, finds the
bit there and writes nothing. -/
theorem setheatWritesOnce : Obligations.SetheatWritesOnce := by
  intro s en b rs idle begun valid other same answers v
  have first := exec_setheat_writes idle begun valid other answers
  refine ⟨_, _, first, exec_setheat_reads rfl begun rfl same rfl, ?_, rfl, rfl, rfl, rfl, rfl, rfl, rfl⟩
  exact List.append_assoc _ _ _

end Sys2Proof.Machine
end

section
/-! PROOFS. The sends of a measurement (43_measurement R146 to R152, R157): what holds at the end of an
operation, line by line, and the sends that the attempts of one measurement make. -/

namespace Sys2Proof.Machine

/-! ### What holds when an operation ends -/

/-- `Q` holds of the state in which the block ends its operation from `s`, whatever the transport answers. -/
def Ends (Q : State → Prop) (s : State) : Prop :=
  ∀ rs, (drain rs s).busy = false → Q (drain rs s)

/-- What an answered line leaves is enough for `Q` at the end: the lines after it lead there, the block
still stands at the line with `I`, or the error raised ends the operation with `Q`. -/
def Continues (Q I : State → Prop) (rest : List Micro) : Progress → Prop
  | .done s => Ends Q (runLines rest s)
  | .wait s => I s
  | .raised k s => Q (raiseError k s)

section ends
variable {Q I : State → Prop} {m : Micro} {rest : List Micro} {s : State}

theorem ends_of_idle (idle : s.busy = false) (h : Q s) : Ends Q s := by
  intro rs _
  rwa [drain_idle idle]

theorem ends_runLines_done {t : State} (done : startLine m s = .done t) (h : Ends Q (runLines rest t)) :
    Ends Q (runLines (m :: rest) s) := by
  rwa [runLines_done done]

theorem runLines_wait_atLine {t : State} (waits : startLine m s = .wait t) :
    runLines (m :: rest) s = atLine m rest t.replies t := runLines_wait waits

/-- The next answer goes to the line the block stands at, whatever it is. -/
theorem drain_atLine_answer {c : Call} (busy : s.busy = true) (call : callOf m s = some c) (a : Answer)
    (rs later : List Reply) :
    drain (some a :: later) (atLine m rest rs s) =
      drain later (afterLine m rest (answerLine m (deliver (callCount c) a)
        (heard c (deliver (callCount c) a) (atLine m rest later s)))) := by
  have stillBusy : (atLine m rest rs s).busy = true := busy
  have stands : { atLine m rest rs s with replies := later } = atLine m rest later s := rfl
  have callThere : callOf m (atLine m rest later s) = some c := by rw [callOf_atLine, call]
  rw [drain_answer stillBusy, stands, respond_of_line (s := atLine m rest later s) a busy rfl callThere]

/-- The rule of a line with transport calls: `I` holds at each of its calls, and every answer continues. -/
theorem ends_atLine (stands : ∀ t, I t → t.busy = true ∧ ∃ c, callOf m t = some c)
    (answered : ∀ t rs c a, I t → callOf m t = some c →
      Continues Q I rest (answerLine m a (heard c a (atLine m rest rs t))))
    (rs : List Reply) (h : I s) : Ends Q (atLine m rest rs s) := by
  intro answers
  induction answers generalizing s rs with
  | nil => exact fun idle => absurd ((stands s h).1.symm.trans idle) (by decide)
  | cons r later ih =>
    obtain ⟨busy, c, call⟩ := stands s h
    cases r with
    | none =>
      rw [drain_blocked (s := atLine m rest rs s) busy]
      exact fun idle => absurd (busy.symm.trans idle) (by decide)
    | some a =>
      rw [drain_atLine_answer busy call]
      have next := answered s later c (deliver (callCount c) a) h call
      generalize answerLine m _ _ = progress at next ⊢
      cases progress with
      | done u => exact next later
      | wait u => exact ih u.replies next
      | raised k u => exact ends_of_idle (raiseError_busy k u) next later

/-- A host operation that ends with success or MeasurementError passed its precondition and its register
reads, so it ends with what its lines then end with. -/
theorem exec_measured {i : Instr} {t : State} (host : wireOf i = none)
    (ends : Ends (fun u => u.err = .registerRead ∨ Q u) (runLines (linesOf i) (accept (encode i) s)))
    (next : exec i s = .next t) (idle : t.busy = false)
    (measured : t.err = .none ∨ t.err = .measurement) : Q t := by
  rw [exec_hostOp host] at next
  obtain ⟨-, ⟨-, -, rfl⟩ | ⟨-, rfl⟩⟩ := hostOp_next next
  · simp at measured
  · refine (ends s.replies idle).resolve_left fun unread => ?_
    simp [unread] at measured

end ends

/-! ### Counting sends -/

theorem sendCount_append (code : Word16) (xs ys : List Event) :
    sendCount code (xs ++ ys) = sendCount code xs + sendCount code ys := List.countP_append

@[simp] theorem sendCount_send (code sent : Word16) (a : Answer) :
    sendCount code [.send sent a] = if code = sent then 1 else 0 := by
  simp only [sendCount, List.countP_singleton, beq_iff_eq, eq_comm (a := code)]

@[simp] theorem sendCount_recv (code asked : Word16) (n : Nat) (a : Answer) :
    sendCount code [.recv asked n a] = 0 := rfl

@[simp] theorem sendCount_delay (code : Word16) (ms : Nat) : sendCount code [.delay ms] = 0 := rfl

theorem code_cmdMeasure (kind : Kind) (hold : Bool) :
    (cmdMeasure kind hold).code = measureCode kind hold := by
  cases kind <;> cases hold <;> rfl

theorem measureCode_t_ne_rh (hold : Bool) : measureCode .t hold ≠ measureCode .rh hold := by
  cases hold <;> decide

/-! ### The entry of a measurement -/

/-- From `s` the block is in the entry of a measurement of `kind` and has sent nothing since. -/
structure Entered (kind : Kind) (s t : State) : Prop where
  busy : t.busy = true
  hold : t.hold = s.hold
  ofKind : t.seq.kind = kind
  mst : t.seq.mst = .idle
  noSend : ∀ code, sendCount code t.trace = sendCount code s.trace

/-- `DoReload` in the entry sends nothing: the shadow is used, or a register read fills it or ends the
operation (41_register_cache R111). -/
theorem ends_entry_reload {Q : State → Prop} {rest : List Micro} {kind : Kind} {s t : State}
    (entered : Entered kind s t) (done : ∀ u, Entered kind s u → Ends Q (runLines rest u))
    (unread : ∀ u, Q (raiseError .registerRead u)) : Ends Q (runLines (.reload :: rest) t) := by
  cases valid : t.uvalid with
  | true => exact ends_runLines_done (startLine_reload_of_valid valid) (done t entered)
  | false =>
    rw [runLines_wait_atLine (startLine_reload_of_invalid valid)]
    refine ends_atLine (I := fun u => Entered kind s u ∧ u.uvalid = false)
      (fun u ⟨inEntry, empty⟩ => ⟨inEntry.busy, _, callOf_reload_of_invalid empty⟩) ?_ _ ⟨entered, valid⟩
    intro u rs c a ⟨inEntry, empty⟩ call
    obtain rfl : .recv .readUreg 1 = c := Option.some.inj ((callOf_reload_of_invalid empty).symm.trans call)
    cases a with
    | ok bytes =>
      refine done _ ⟨inEntry.busy, inEntry.hold, inEntry.ofKind, inEntry.mst, fun code => ?_⟩
      exact (sendCount_append code u.trace _).trans (inEntry.noSend code)
    | notReady e => exact unread _
    | hardError e => exact unread _

/-! ### The attempts of a measurement -/

/-- From `s` the block has come to an attempt of a measurement of `kind`, has sent its command `n` times and
no other command. -/
structure Tried (kind : Kind) (n : Nat) (s t : State) : Prop where
  busy : t.busy = true
  hold : t.hold = s.hold
  ofKind : t.seq.kind = kind
  att_pos : 1 ≤ t.seq.att
  att_le : t.seq.att ≤ 3
  sends : ∀ code, sendCount code t.trace =
    sendCount code s.trace + if code = measureCode kind s.hold then n else 0

/-- How many attempts have made their send, at a call of a measurement: the one in progress has exactly when
it waits for its frame (43_measurement R144). -/
def attemptsSent (q : Seq) : Nat :=
  match q.mst with
  | .holdWait => q.att
  | .pollWait => q.att
  | _ => q.att - 1

/-- Where the answer to a call leaves the attempts: all have made their send, but for one that starts now; an
error is raised only after the third. -/
def AttemptsLeft (kind : Kind) (s : State) : Progress → Prop
  | .done t => Tried kind t.seq.att s t
  | .wait t => Tried kind (attemptsSent t.seq) s t
  | .raised k t => k = .measurement ∧ t.seq.att = 3 ∧ Tried kind 3 s t

section attempts
variable {kind : Kind} {s t : State}

/-- The first attempt starts (43_measurement R146). -/
theorem Entered.firstAttempt (entered : Entered kind s t) :
    Tried kind (attemptsSent { t.seq with att := 1 }) s { t with seq := { t.seq with att := 1 } } := by
  have unsent : attemptsSent { t.seq with att := 1 } = 0 := by simp only [attemptsSent, entered.mst]
  rw [unsent]
  exact ⟨entered.busy, entered.hold, entered.ofKind, Nat.le_refl 1, Nat.le_add_left 1 2, fun code => by
    simp [entered.noSend code]⟩

/-- Whatever the call and its answer, the attempt in progress has made its one send once it is answered. -/
theorem sendCount_callEvent_attempts {c : Call} (call : callOf (.attempts kind) t = some c)
    (started : 1 ≤ t.seq.att) (a : Answer) (code : Word16) :
    (if code = measureCode kind t.hold then attemptsSent t.seq else 0) + sendCount code [callEvent c a] =
      if code = measureCode kind t.hold then t.seq.att else 0 := by
  simp only [callOf] at call
  split at call
  case h_1 waits => cases call; simp [callEvent, attemptsSent, waits]
  case h_2 waits => cases call; simp [callEvent, attemptsSent, waits]
  case h_3 notHold notPoll =>
    have unsent : attemptsSent t.seq = t.seq.att - 1 := by
      unfold attemptsSent
      split
      · contradiction
      · contradiction
      · rfl
    cases call
    rw [unsent, callEvent, sendCount_send, code_cmdMeasure]
    split <;> omega

theorem Tried.of_heard {c : Call} (tried : Tried kind (attemptsSent t.seq) s t)
    (call : callOf (.attempts kind) t = some c) (a : Answer) :
    Tried kind t.seq.att s (heard c a t) := by
  refine ⟨by simpa using tried.busy, by simpa using tried.hold, by simpa using tried.ofKind,
    by simpa using tried.att_pos, by simpa using tried.att_le, fun code => ?_⟩
  have counted := sendCount_callEvent_attempts call tried.att_pos a code
  rw [tried.hold] at counted
  rw [heard_trace, sendCount_append, tried.sends, Nat.add_assoc, counted]

theorem Tried.attemptsLeft_attemptFailed (tried : Tried kind t.seq.att s t) :
    AttemptsLeft kind s (attemptFailed t) := by
  obtain ⟨busy, hold, ofKind, att_pos, att_le, sends⟩ := tried
  rcases attemptFailed_cases t with ⟨left, another⟩ | ⟨noneLeft, failed⟩
  · rw [another]
    exact ⟨busy, hold, ofKind, Nat.le_add_left 1 _, left, sends⟩
  · have third : t.seq.att = 3 := Nat.le_antisymm att_le noneLeft
    rw [third] at sends
    rw [failed]
    exact ⟨rfl, third, busy, hold, ofKind, att_pos, att_le, sends⟩

theorem Tried.attemptsLeft_frameReceived (tried : Tried kind t.seq.att s t) (bytes : List Byte) :
    AttemptsLeft kind s (frameReceived kind bytes t) := by
  obtain ⟨busy, hold, ofKind, att_pos, att_le, sends⟩ := tried
  unfold frameReceived
  dsimp only
  split
  · exact ⟨busy, hold, ofKind, att_pos, att_le, sends⟩
  · exact Tried.attemptsLeft_attemptFailed ⟨busy, hold, ofKind, att_pos, att_le, sends⟩

theorem Tried.of_commandSent (tried : Tried kind t.seq.att s t) :
    Tried kind (attemptsSent (commandSent t).seq) s (commandSent t) := by
  obtain ⟨busy, hold, ofKind, att_pos, att_le, sends⟩ := tried
  unfold commandSent
  dsimp only
  split <;> exact ⟨busy, hold, ofKind, att_pos, att_le, sends⟩

theorem Tried.of_delay (tried : Tried kind t.seq.att s t) (waits : t.seq.mst = .pollWait) (ms : Nat) :
    Tried kind (attemptsSent (delay ms t).seq) s (delay ms t) := by
  have sent : attemptsSent (delay ms t).seq = t.seq.att := by
    simp only [delay, attemptsSent, emit_seq_mst, waits, emit_seq_att]
  obtain ⟨busy, hold, ofKind, att_pos, att_le, sends⟩ := tried
  rw [sent]
  exact ⟨busy, hold, ofKind, att_pos, att_le, fun code =>
    (sendCount_append code t.trace _).trans (sends code)⟩

/-- An answer brings the frame, fails the attempt, asks for another poll or confirms the command; in each case
the attempts are left as they should be (43_measurement R144). -/
theorem Tried.attemptsLeft_measureAnswer (tried : Tried kind t.seq.att s t) (a : Answer) :
    AttemptsLeft kind s (measureAnswer kind a t) := by
  unfold measureAnswer
  split
  case h_1 => exact tried.attemptsLeft_frameReceived _
  case h_2 => exact tried.attemptsLeft_attemptFailed
  case h_3 => exact tried.attemptsLeft_frameReceived _
  case h_4 waits => exact tried.of_delay waits _
  case h_5 => exact tried.attemptsLeft_attemptFailed
  case h_6 => exact tried.of_commandSent
  case h_7 => exact tried.attemptsLeft_attemptFailed

/-- The attempts of a measurement end done or exhausted, with one send for each (43_measurement R150,
R152). -/
theorem ends_attempts {Q : State → Prop} {rest : List Micro} (entered : Entered kind s t)
    (done : ∀ u, Tried kind u.seq.att s u → Ends Q (runLines rest u))
    (exhausted : ∀ u, Tried kind 3 s u → u.seq.att = 3 → Q (raiseError .measurement u)) :
    Ends Q (runLines (.attempts kind :: rest) t) := by
  rw [runLines_wait_atLine rfl]
  refine ends_atLine (I := fun u => Tried kind (attemptsSent u.seq) s u)
    (fun u tried => ⟨tried.busy, callOf_attempts kind u⟩) ?_ _ entered.firstAttempt
  intro u rs c a tried call
  have atCall : Tried kind (attemptsSent u.seq) s (atLine (.attempts kind) rest rs u) :=
    ⟨tried.busy, tried.hold, tried.ofKind, tried.att_pos, tried.att_le, tried.sends⟩
  have heardAll := atCall.of_heard ((callOf_atLine _ rest rs u).trans call) a
  rw [← heard_seq_att c a] at heardAll
  have left : AttemptsLeft kind s (answerLine (.attempts kind) a (heard c a (atLine _ rest rs u))) :=
    heardAll.attemptsLeft_measureAnswer a
  cases progress : answerLine (.attempts kind) a (heard c a (atLine _ rest rs u)) with
  | done v => rw [progress] at left; exact done v left
  | wait v => rw [progress] at left; exact left
  | raised k v =>
    rw [progress] at left
    obtain ⟨rfl, third, failed⟩ := left
    exact exhausted v failed third

end attempts

/-- The rule of a whole measurement (43_measurement R151): its entry fails without a send, or its attempts
end done or exhausted. -/
theorem ends_doMeasure {Q : State → Prop} {rest : List Micro} {kind : Kind} {s : State}
    (busy : s.busy = true) (done : ∀ t, Tried kind t.seq.att s t → Ends Q (runLines rest t))
    (unread : ∀ t, Q (raiseError .registerRead t))
    (exhausted : ∀ t, Tried kind 3 s t → t.seq.att = 3 → Q (raiseError .measurement t)) :
    Ends Q (runLines (doMeasure kind ++ rest) s) := by
  have entered : Entered kind s { s with seq := { s.seq with kind := kind, att := 0, mst := .idle } } :=
    ⟨busy, rfl, rfl, rfl, fun _ => rfl⟩
  refine ends_runLines_done rfl (ends_entry_reload entered (fun t reloaded => ?_) unread)
  have latched : Entered kind s
      { t with seq := { t.seq with ct := timeOf (rowInForce t) kind t.typ } } :=
    ⟨reloaded.busy, reloaded.hold, reloaded.ofKind, reloaded.mst, reloaded.noSend⟩
  exact ends_runLines_done rfl (ends_attempts latched done exhausted)

/-! ### MEAS_T and MEAS_RH -/

/-- From `s` to its end in `t` an operation of one measurement made one send per attempt and no other. -/
def OneMeasured (kind : Kind) (s t : State) : Prop :=
  1 ≤ t.seq.att ∧ t.seq.att ≤ 3 ∧
    sendCount (measureCode kind s.hold) t.trace =
      sendCount (measureCode kind s.hold) s.trace + t.seq.att ∧
    (t.err = .measurement → t.seq.att = 3) ∧
    ∀ code, code ≠ measureCode kind s.hold → sendCount code t.trace = sendCount code s.trace + 0

section measured
variable {kind : Kind} {n : Nat} {s t u : State}

theorem Tried.sends_own (tried : Tried kind n s t) :
    sendCount (measureCode kind s.hold) t.trace = sendCount (measureCode kind s.hold) s.trace + n := by
  rw [tried.sends, if_pos rfl]

theorem Tried.sends_other (tried : Tried kind n s t) {code : Word16}
    (other : code ≠ measureCode kind s.hold) :
    sendCount code t.trace = sendCount code s.trace + 0 := by
  rw [tried.sends, if_neg other]

theorem Tried.oneMeasured (tried : Tried kind t.seq.att s t) (att : u.seq.att = t.seq.att)
    (trace : u.trace = t.trace) (third : u.err = .measurement → t.seq.att = 3) : OneMeasured kind s u := by
  simp only [OneMeasured, att, trace]
  exact ⟨tried.att_pos, tried.att_le, tried.sends_own, third, fun _ => tried.sends_other⟩

/-- An operation of one measurement and a line that puts its result (43_measurement R155, R156). -/
theorem exec_oneMeasured {i : Instr} {m : Micro} (host : wireOf i = none)
    (lines : linesOf i = doMeasure kind ++ [m]) (result : ∀ u, ∃ v, startLine m u = .done (putResult v u))
    (idle : t.busy = false) (measured : t.err = .none ∨ t.err = .measurement) (next : exec i s = .next t) :
    OneMeasured kind s t := by
  have ends : Ends (fun u => u.err = .registerRead ∨ OneMeasured kind s u)
      (runLines (linesOf i) (accept (encode i) s)) := by
    rw [lines]
    refine ends_doMeasure rfl (fun u tried => ?_) (fun _ => .inl rfl) (fun u tried third => .inr ?_)
    · obtain ⟨v, puts⟩ := result u
      refine ends_runLines_done puts (ends_of_idle rfl (.inr ?_))
      exact tried.oneMeasured (s := accept _ s) rfl rfl nofun
    · rw [← third] at tried
      exact tried.oneMeasured (s := accept _ s) rfl rfl fun _ => third
  exact exec_measured host ends next idle measured

end measured

/-! ### MEAS_RHC -/

/-- From `s` to `t` the block made `n` sends of the temperature command, `k` of the humidity command and no
other. -/
def SentBoth (n k : Nat) (s t : State) : Prop :=
  ∀ code, sendCount code t.trace = sendCount code s.trace +
    ((if code = measureCode .t s.hold then n else 0) + if code = measureCode .rh s.hold then k else 0)

/-- From `s` to its end in `t` MEAS_RHC failed in its temperature, after three sends, or measured it and made
one humidity send per attempt (43_measurement R157). -/
def BothMeasured (s t : State) : Prop :=
  1 ≤ t.seq.att ∧ t.seq.att ≤ 3 ∧ (t.err = .measurement → t.seq.att = 3) ∧
    ((t.err = .measurement ∧ t.seq.kind = .t ∧ SentBoth 3 0 s t) ∨
      ∃ n, 1 ≤ n ∧ n ≤ 3 ∧ t.seq.kind = .rh ∧ SentBoth n t.seq.att s t)

section both
variable {n k : Nat} {s t : State}

theorem SentBoth.temperature (sent : SentBoth n k s t) :
    sendCount (measureCode .t s.hold) t.trace = sendCount (measureCode .t s.hold) s.trace + n := by
  rw [sent, if_pos rfl, if_neg (measureCode_t_ne_rh s.hold), Nat.add_zero]

theorem SentBoth.humidity (sent : SentBoth n k s t) :
    sendCount (measureCode .rh s.hold) t.trace = sendCount (measureCode .rh s.hold) s.trace + k := by
  rw [sent, if_neg (measureCode_t_ne_rh s.hold).symm, if_pos rfl, Nat.zero_add]

theorem SentBoth.other (sent : SentBoth n k s t) {code : Word16} (notT : code ≠ measureCode .t s.hold)
    (notRh : code ≠ measureCode .rh s.hold) :
    sendCount code t.trace = sendCount code s.trace + 0 := by
  rw [sent, if_neg notT, if_neg notRh]

theorem Tried.sentBoth_of_temperature (tried : Tried .t n s t) : SentBoth n 0 s t := by
  intro code
  rw [tried.sends, ite_self, Nat.add_zero]

/-- The sends of a humidity measurement that starts where the temperature's attempts ended add to theirs. -/
theorem Tried.sentBoth {mid start : State} (temperature : Tried .t n s mid)
    (humidity : Tried .rh k start t) (hold : start.hold = mid.hold) (trace : start.trace = mid.trace) :
    SentBoth n k s t := by
  intro code
  rw [humidity.sends, hold, trace, temperature.hold, temperature.sends, Nat.add_assoc]

/-- MEAS_RHC is its temperature measurement, and when that is done its humidity measurement
(43_measurement R157). -/
theorem ends_measRhc :
    Ends (fun u => u.err = .registerRead ∨ BothMeasured s u)
      (runLines (linesOf .measRhc) (accept (encode .measRhc) s)) := by
  have lines : linesOf .measRhc = doMeasure .t ++ .latchT :: (doMeasure .rh ++ [.resultRhc]) := rfl
  rw [lines]
  refine ends_doMeasure rfl (fun mid temperature => ?_) (fun _ => .inl rfl)
    (fun u failed third => .inr ?_)
  · refine ends_runLines_done rfl (ends_doMeasure temperature.busy (fun u humidity => ?_)
      (fun _ => .inl rfl) (fun u failed third => .inr ?_))
    · have sent : SentBoth mid.seq.att u.seq.att s u := temperature.sentBoth humidity rfl rfl
      refine ends_runLines_done rfl (ends_of_idle rfl (.inr ?_))
      exact ⟨humidity.att_pos, humidity.att_le, nofun, .inr ⟨_, temperature.att_pos, temperature.att_le,
        humidity.ofKind, sent⟩⟩
    · have sent : SentBoth mid.seq.att 3 s u := temperature.sentBoth failed rfl rfl
      rw [← third] at sent
      exact ⟨failed.att_pos, failed.att_le, fun _ => third, .inr ⟨_, temperature.att_pos,
        temperature.att_le, failed.ofKind, sent⟩⟩
  · exact ⟨failed.att_pos, failed.att_le, fun _ => third, .inl ⟨rfl, failed.ofKind,
      failed.sentBoth_of_temperature⟩⟩

end both

/-- Settles O41: every attempt makes its send before its call is answered, so the sends are the attempts
when a measurement is done and when its third attempt fails; MEAS_RHC adds those of its two. -/
theorem sendsCountAttempts : Obligations.SendsCountAttempts := by
  intro s t idle measured
  refine ⟨exec_oneMeasured rfl rfl (fun _ => ⟨_, rfl⟩) idle measured,
    exec_oneMeasured rfl rfl (fun _ => ⟨_, rfl⟩) idle measured, fun next => ?_⟩
  obtain ⟨att_pos, att_le, third, outcome⟩ : BothMeasured s t :=
    exec_measured rfl ends_measRhc next idle measured
  rcases outcome with ⟨err, kind, sent⟩ | ⟨n, pos, le, kind, sent⟩
  · exact ⟨att_pos, att_le, third, fun _ => sent.other,
      .inl ⟨err, kind, sent.temperature, sent.humidity⟩⟩
  · exact ⟨att_pos, att_le, third, fun _ => sent.other,
      .inr ⟨n, pos, le, kind, sent.temperature, sent.humidity⟩⟩

end Sys2Proof.Machine
end

section
/-! PROOFS. The converter (44_converter): the formulas and their ranges, what `RESULT_C` reads of a result, and
the two operations CVT_T and CVT_RH. -/

namespace Sys2Proof.Machine

/-! ### The formulas with their constants multiplied out -/

theorem convT_eq (w : Word16) : convT w = -307036160 + 17572 * (w.toNat : Int) := by
  rw [convT, show (-4685 * 65536 : Int) = -307036160 by decide]

theorem convRhRaw_eq (w : Word16) : convRhRaw w = -39321600 + 12500 * (w.toNat : Int) := by
  rw [convRhRaw, show (-600 * 65536 : Int) = -39321600 by decide]

/-- The clamp to 0.0 and 100.0, which the humidities share. -/
theorem clamp_percent (v : Int) : clamp v 0 (10000 * 65536) = max 0 (min 655360000 v) := by
  unfold clamp
  split
  · omega
  · split
    · omega
    · omega

theorem convRh_eq_clamped (w : Word16) :
    convRh w = max 0 (min 655360000 (-39321600 + 12500 * (w.toNat : Int))) := by
  rw [convRh, clamp_percent, convRhRaw_eq]

/-- The humidity formula is negative up to the word 3145 and at least 100.0 from the word 55575
(44_converter R172). -/
theorem convRh_eq_ite (w : Word16) :
    convRh w = if w.toNat ≤ 3145 then 0 else if 55575 ≤ w.toNat then 655360000
      else -39321600 + 12500 * (w.toNat : Int) := by
  rw [convRh_eq_clamped]
  split
  · omega
  · split
    · omega
    · omega

/-! ### Ranges -/

theorem convT_range (w : Word16) : -307036160 ≤ convT w ∧ convT w ≤ 844544860 := by
  have word := w.isLt
  rw [convT_eq]
  omega

theorem clamp_percent_range (v : Int) :
    0 ≤ clamp v 0 (10000 * 65536) ∧ clamp v 0 (10000 * 65536) ≤ 655360000 := by
  rw [clamp_percent]
  omega

theorem convRh_range (w : Word16) : 0 ≤ convRh w ∧ convRh w ≤ 655360000 := clamp_percent_range _

theorem compensate_range (coef rhq tq : Int) :
    0 ≤ compensate coef rhq tq ∧ compensate coef rhq tq ≤ 655360000 := clamp_percent_range _

theorem convT_strictMono {w v : Word16} (less : w.toNat < v.toNat) : convT w < convT v := by
  rw [convT_eq, convT_eq]
  omega

theorem convRhRaw_strictMono {w v : Word16} (less : w.toNat < v.toNat) : convRhRaw w < convRhRaw v := by
  rw [convRhRaw_eq, convRhRaw_eq]
  omega

/-- The product inside `Compensate` is largest at the top temperature and the coefficient `-2^15`
(44_converter R173). -/
theorem natAbs_compensate_product_le (coef : BitVec 16) (w : Word16) :
    ((convT w - 163840000) * coef.toInt).natAbs ≤ 22305336852480 := by
  obtain ⟨low, high⟩ := convT_range w
  have coefLow := coef.le_toInt
  have coefHigh := coef.toInt_lt
  have difference : (convT w - 163840000).natAbs ≤ 680704860 := by omega
  have factor : coef.toInt.natAbs ≤ 32768 := by omega
  calc ((convT w - 163840000) * coef.toInt).natAbs
      = (convT w - 163840000).natAbs * coef.toInt.natAbs := Int.natAbs_mul _ _
    _ ≤ 680704860 * 32768 := Nat.mul_le_mul difference factor
    _ = 22305336852480 := by decide

/-! ### Values as 32-bit words -/

/-- A value within 32 signed bits is held exactly (44_converter R170). -/
theorem toInt_toWord {q : Int} (low : -2147483648 ≤ q) (high : q < 2147483648) : (toWord q).toInt = q :=
  BitVec.toInt_ofInt_eq_self (by decide) low high

theorem badQ_toInt : badQ.toInt = 1671168000 := by decide

/-- The sentinel lies above every good value (44_converter R178). -/
theorem toWord_ne_badQ {q : Int} (low : -2147483648 ≤ q) (below : q < 1671168000) : toWord q ≠ badQ := by
  intro same
  have value : q = 1671168000 := by rw [← badQ_toInt, ← same, toInt_toWord low (by omega)]
  omega

theorem toInt_toWord_convT (w : Word16) : (toWord (convT w)).toInt = convT w := by
  obtain ⟨low, high⟩ := convT_range w
  exact toInt_toWord (by omega) (by omega)

theorem toWord_convT_ne_badQ (w : Word16) : toWord (convT w) ≠ badQ := by
  obtain ⟨low, high⟩ := convT_range w
  exact toWord_ne_badQ (by omega) (by omega)

/-- What a humidity in 0.0 to 100.0 is as a word: itself, and not the sentinel. -/
theorem toWord_percent {q : Int} (range : 0 ≤ q ∧ q ≤ 655360000) :
    (toWord q).toInt = q ∧ toWord q ≠ badQ := by
  obtain ⟨low, high⟩ := range
  exact ⟨toInt_toWord (by omega) (by omega), toWord_ne_badQ (by omega) (by omega)⟩

/-! ### `RESULT_C` -/

/-- `RESULT_C` is `RESULT` in whole hundredths, rounded down: the quotient always fits the 16 bits kept
(10_state R23). -/
theorem resultC_toInt (s : State) : (resultC s).toInt = s.result.toInt / 65536 := by
  have low := s.result.le_toInt
  have high := s.result.toInt_lt
  have shifted : (s.result.sshiftRight 16).toInt = s.result.toInt / 65536 := by
    rw [BitVec.toInt_sshiftRight, Int.shiftRight_eq_div_pow]
    rfl
  rw [resultC, ← BitVec.signExtend_eq_setWidth_of_le _ (by decide), BitVec.toInt_signExtend, shifted,
    show min 16 32 = 16 by decide]
  exact Int.bmod_eq_of_le (by omega) (by omega)

/-- `RESULT_C` of a value between two bounds in hundredths. -/
theorem resultC_toWord_range {q lo hi : Int} (s : State) (exactWord : (toWord q).toInt = q)
    (low : 65536 * lo ≤ q) (high : q < 65536 * hi + 65536) :
    let c := (resultC { s with result := toWord q }).toInt
    65536 * c ≤ q ∧ q < 65536 * c + 65536 ∧ lo ≤ c ∧ c ≤ hi := by
  simp only [resultC_toInt, exactWord]
  omega

theorem resultC_convT (s : State) (w : Word16) :
    let c := (resultC { s with result := toWord (convT w) }).toInt
    65536 * c ≤ convT w ∧ convT w < 65536 * c + 65536 ∧ -4685 ≤ c ∧ c ≤ 12886 := by
  obtain ⟨low, high⟩ := convT_range w
  exact resultC_toWord_range s (toInt_toWord_convT w) (by omega) (by omega)

theorem resultC_percent {q : Int} (s : State) (range : 0 ≤ q ∧ q ≤ 655360000) :
    let c := (resultC { s with result := toWord q }).toInt
    65536 * c ≤ q ∧ q < 65536 * c + 65536 ∧ 0 ≤ c ∧ c ≤ 10000 := by
  obtain ⟨exactWord, -⟩ := toWord_percent range
  obtain ⟨low, high⟩ := range
  exact resultC_toWord_range s exactWord (by omega) (by omega)

theorem resultC_badQ (s : State) : (resultC { s with result := badQ }).toInt = 25500 := by
  rw [resultC_toInt, badQ_toInt]
  rfl

/-- Settles O19: each clause is a lemma above; the two humidities share theirs, which rest on the clamp
alone. -/
theorem converterRanges : Obligations.ConverterRanges :=
  ⟨fun w => and_assoc.mp ⟨convT_range w, toInt_toWord_convT w⟩,
    fun w => and_assoc.mp ⟨convRh_range w, (toWord_percent (convRh_range w)).left⟩,
    fun coef rhq tq => and_assoc.mp
      ⟨compensate_range coef rhq tq, toWord_percent (compensate_range coef rhq tq)⟩,
    fun w => ⟨toWord_convT_ne_badQ w, (toWord_percent (convRh_range w)).right⟩,
    fun _ _ less => ⟨convT_strictMono less, convRhRaw_strictMono less⟩,
    natAbs_compensate_product_le, resultC_convT,
    fun s w => resultC_percent s (convRh_range w),
    fun s coef rhq tq => resultC_percent s (compensate_range coef rhq tq), resultC_badQ⟩

/-! ### CVT_T and CVT_RH -/

theorem startLine_resultCvtT_accept (w : Word16) (s : State) :
    startLine .resultCvtT (accept w s) =
      .done (putResult (toWord (convT (s.payload.extractLsb' 0 16))) (accept w s)) := rfl

theorem startLine_resultCvtRh_accept (w : Word16) (s : State) :
    startLine .resultCvtRh (accept w s) =
      .done (putResult (toWord (convRh (s.payload.extractLsb' 0 16))) (accept w s)) := rfl

/-- Settles O17: CVT_T is its one line, and 32 signed bits hold the temperature exactly. -/
theorem cvtTResult : Obligations.CvtTResult := by
  intro s idle
  refine ⟨_, exec_of_one_line rfl rfl rfl idle (startLine_resultCvtT_accept _ s), rfl, ?_⟩
  exact (toInt_toWord_convT _).trans (convT_eq _)

/-- Settles O18: CVT_RH is its one line, and 32 signed bits hold the humidity exactly. -/
theorem cvtRhResult : Obligations.CvtRhResult := by
  intro s idle
  refine ⟨_, exec_of_one_line rfl rfl rfl idle (startLine_resultCvtRh_accept _ s), rfl, ?_⟩
  obtain ⟨exactWord, -⟩ := toWord_percent (convRh_range (s.payload.extractLsb' 0 16))
  exact exactWord.trans (convRh_eq_ite _)

end Sys2Proof.Machine
end

section
/-! PROOFS. The frames and the lifecycle operations: the parsers byte by byte, and a BEGIN as far as its
serial-number read (30_encoding R76 to R80, 43_measurement R142, 45_lifecycle R185 to R194). -/

namespace Sys2Proof.Machine

/-! ### The frames -/

section frames
variable (bytes : List Byte)

theorem pairOk_iff (k : Nat) :
    pairOk bytes k = true ↔ crc8 ((byteAt bytes (2 * k)).setWidth 32) = byteAt bytes (2 * k + 1) :=
  checkCrc8_eq_true_iff _ _

theorem groupOk_iff (i : Nat) :
    groupOk bytes i = true ↔
      crc8 ((byteAt bytes i ++ byteAt bytes (i + 1)).setWidth 32) = byteAt bytes (i + 2) :=
  checkCrc8_eq_true_iff _ _

theorem validMeas_iff (kind : Kind) :
    validMeas kind bytes = true ↔
      (byteAt bytes 1).extractLsb' 0 2 = statusCode kind ∧
        crc8 ((measWord bytes).setWidth 32) = byteAt bytes 2 := by
  rw [validMeas, parseMeas, Bool.and_eq_true, beq_iff_eq, checkCrc8_eq_true_iff]

/-- Bit 0 of the status bits is 0 for both kinds (30_encoding R80). -/
theorem getLsbD_zero_statusCode (kind : Kind) : (statusCode kind).getLsbD 0 = false := by
  cases kind <;> rfl

theorem validMeas_of_bit_zero (kind : Kind) (odd : (byteAt bytes 1).getLsbD 0 = true) :
    validMeas kind bytes = false := by
  refine Bool.eq_false_iff.mpr fun valid => ?_
  obtain ⟨status, -⟩ := (validMeas_iff bytes kind).mp valid
  have lowBit : ((byteAt bytes 1).extractLsb' 0 2).getLsbD 0 = (byteAt bytes 1).getLsbD 0 := by
    simp
  rw [status, getLsbD_zero_statusCode, odd] at lowBit
  exact Bool.false_ne_true lowBit

end frames

/-- Settles O32: each pair, group and measurement frame passes exactly when its CRC and status bits do. -/
theorem framesParsed : Obligations.FramesParsed := by
  refine ⟨fun b0 c0 b1 c1 b2 c2 b3 c3 => ?_, fun b0 b1 c0 b2 b3 c1 => ?_, fun b0 b1 c0 =>
    ⟨validMeas_iff _ .t, validMeas_iff _ .rh, fun odd kind => validMeas_of_bit_zero _ kind odd⟩⟩
  · simp only [parseSnb, Bool.and_eq_true, pairOk_iff, and_assoc]
    rfl
  · simp only [parseSnac, Bool.and_eq_true, groupOk_iff]
    rfl

/-! ### An operation whose line raises an error -/

/-- What an answered call writes, in one piece (10_state R24, 20_memory R41 to R43). -/
theorem heard_eq (c : Call) (a : Answer) (s : State) :
    heard c a s = { s with
      lastres := answerCode a, trace := s.trace ++ [callEvent c a]
      seq := { s.seq with frame := heardFrame c a s.seq.frame } } := by
  cases c <;> cases a <;> rfl

theorem answerLegal_of_failsWith {a : Answer} {e : Byte} (fails : FailsWith a e) (n : Nat) :
    answerLegal n a = true := by
  obtain ⟨rfl | rfl, nonzero⟩ := fails <;> exact bne_iff_ne.mpr nonzero

theorem answerCode_of_failsWith {a : Answer} {e : Byte} (fails : FailsWith a e) : answerCode a = e := by
  obtain ⟨-, code, -⟩ := deliver_of_failsWith 0 fails
  exact code

theorem heardFrame_of_failsWith {a : Answer} {e : Byte} (c : Call) (fails : FailsWith a e)
    (frame : List Byte) : heardFrame c a frame = frame := by
  obtain ⟨rfl | rfl, -⟩ := fails <;> cases c <;> rfl

/-- A line whose answer raises an error ends the operation; the answers left are not taken. -/
theorem drain_runLines_of_raised {m : Micro} {rest : List Micro} {s t : State} {c : Call} {a : Answer}
    {k : ErrKind} {rs : List Reply} (busy : s.busy = true) (waits : startLine m s = .wait s)
    (call : callOf m s = some c) (legal : answerLegal (callCount c) a = true)
    (raised : answerLine m a (heard c a (atLine m rest rs s)) = .raised k t) :
    drain (some a :: rs) (runLines (m :: rest) s) = raiseError k t := by
  rw [drain_runLines_of_wait busy waits call legal, raised]
  exact drain_idle (raiseError_busy k t) rs

/-! ### The serial-number read -/

/-- A legal answer that gives no part of the serial number: the call failed, or its frame does not parse
(45_lifecycle R190). -/
structure Unusable {α : Type} (n : Nat) (parse : List Byte → Option α) (a : Answer) : Prop where
  legal : answerLegal n a = true
  unparsed : ∀ bytes, a = .ok bytes → parse bytes = none

section unusable
variable {α : Type} {n : Nat} {parse : List Byte → Option α}

theorem unusable_of_failsWith {a : Answer} {e : Byte} (fails : FailsWith a e) : Unusable n parse a := by
  obtain ⟨-, -, notOk⟩ := deliver_of_failsWith n fails
  exact ⟨answerLegal_of_failsWith fails n, fun bytes isOk => absurd isOk (notOk bytes)⟩

theorem unusable_of_unparsed {bytes : List Byte} (length : bytes.length = n)
    (unparsed : parse bytes = none) : Unusable n parse (.ok bytes) :=
  ⟨beq_iff_eq.mpr length, fun _ isOk => Answer.ok.inj isOk ▸ unparsed⟩

end unusable

section serial
variable {rest : List Micro} {rs : List Reply} {s : State} {a : Answer}

theorem answerLine_readSnb_unusable (unusable : Unusable 8 parseSnb a) (s : State) :
    answerLine .readSnb a s = .raised .serialNumber s := by
  cases a with
  | ok bytes => simp only [answerLine, unusable.unparsed bytes rfl]
  | notReady e => rfl
  | hardError e => rfl

theorem answerLine_readSnac_unusable (unusable : Unusable 6 parseSnac a) (s : State) :
    answerLine .readSnac a s = .raised .serialNumber s := by
  cases a with
  | ok bytes => simp only [answerLine, unusable.unparsed bytes rfl]
  | notReady e => rfl
  | hardError e => rfl

theorem answerLine_readSnb_parsed {bytes : List Byte} {v : Word32} (parsed : parseSnb bytes = some v)
    (s : State) :
    answerLine .readSnb (.ok bytes) s = .done { s with seq := { s.seq with snbtmp := v } } := by
  simp only [answerLine, parsed]

/-- The block after an answer to the read of part B. -/
def snbHeard (rest : List Micro) (rs : List Reply) (a : Answer) (s : State) : State :=
  heard (.recv .readSnb 8) a (atLine .readSnb rest rs s)

/-- The block after an answer to the read of part A/C. -/
def snacHeard (rest : List Micro) (rs : List Reply) (a : Answer) (s : State) : State :=
  heard (.recv .readSnac 6) a (atLine .readSnac rest rs s)

theorem drain_readSnb_unusable (busy : s.busy = true) (unusable : Unusable 8 parseSnb a) :
    drain (some a :: rs) (runLines (.readSnb :: rest) s) =
      raiseError .serialNumber (snbHeard rest rs a s) :=
  drain_runLines_of_raised busy rfl rfl unusable.legal (answerLine_readSnb_unusable unusable _)

theorem drain_readSnac_unusable (busy : s.busy = true) (unusable : Unusable 6 parseSnac a) :
    drain (some a :: rs) (runLines (.readSnac :: rest) s) =
      raiseError .serialNumber (snacHeard rest rs a s) :=
  drain_runLines_of_raised busy rfl rfl unusable.legal (answerLine_readSnac_unusable unusable _)

theorem drain_readSnb_parsed {bytes : List Byte} {v : Word32} (busy : s.busy = true)
    (length : bytes.length = 8) (parsed : parseSnb bytes = some v) :
    drain (some (.ok bytes) :: rs) (runLines (.readSnb :: rest) s) =
      drain rs (runLines rest { snbHeard rest rs (.ok bytes) s with
        seq := { (snbHeard rest rs (.ok bytes) s).seq with snbtmp := v } }) := by
  have legal : answerLegal 8 (.ok bytes) = true := beq_iff_eq.mpr length
  rw [drain_runLines_of_wait (m := .readSnb) busy rfl rfl legal, answerLine_readSnb_parsed parsed]
  rfl

end serial

/-! ### The lines of `DoReset` and `DoSetHeater` when their calls succeed -/

section lines
variable {s : State} (busy : s.busy = true) (rest : List Micro) (rs : List Reply)
include busy

theorem drain_sendReset_ok :
    drain (some (.ok []) :: rs) (runLines (.sendReset :: rest) s) =
      drain rs (runLines rest { atLine .sendReset rest rs s with
        uvalid := false, lastres := 0, trace := s.trace ++ [.send 0x00FE (.ok [])] }) :=
  drain_runLines_of_wait (m := .sendReset) busy rfl rfl rfl rs

theorem drain_reload_ok (invalid : s.uvalid = false) (b : Byte) :
    drain (some (.ok [b]) :: rs) (runLines (.reload :: rest) s) =
      drain rs (runLines rest { atLine .reload rest rs s with
        ureg := b, uvalid := true, lastres := 0, trace := s.trace ++ [.recv 0x00E7 1 (.ok [b])]
        seq := { (atLine .reload rest rs s).seq with frame := [b] } }) :=
  drain_runLines_of_wait busy (startLine_reload_of_invalid invalid) (callOf_reload_of_invalid invalid) rfl rs

theorem drain_changeHeater_ok {en : Bool} (other : heatOf s.ureg ≠ en) :
    drain (some (.ok []) :: rs) (runLines (.changeHeater en :: rest) s) =
      drain rs (runLines rest { atLine (.changeHeater en) rest rs s with
        uvalid := false, lastres := 0
        trace := s.trace ++ [.sendByte 0x00E6 (withHeater s.ureg en) (.ok [])] }) :=
  drain_runLines_of_wait busy (startLine_changeHeater_of_ne other) (callOf_changeHeater_of_ne other) rfl rs

end lines

theorem startLine_checkReset_of_eq {s : State} (same : s.ureg = s.params.uregResetValue) :
    startLine .checkReset s = .done s := if_pos same

/-- The state after a device reset that succeeds, with the lines `rest` to follow (45_lifecycle R187). -/
def deviceReset (rest : List Micro) (rs : List Reply) (s : State) : State :=
  let v := s.params.uregResetValue
  { atLine .reload (.checkReset :: rest) rs s with
    ureg := v, uvalid := true, lastres := 0
    trace := s.trace ++ [.send 0x00FE (.ok [])] ++ [.delay s.params.resetSettleMs] ++
      [.recv 0x00E7 1 (.ok [v])]
    seq := { (atLine .reload (.checkReset :: rest) rs s).seq with frame := [v] } }

/-- The reset command is sent and the register read back as its reset value. -/
theorem drain_doReset_ok {s : State} (busy : s.busy = true) (rest : List Micro) (rs : List Reply) :
    drain (some (.ok []) :: some (.ok [s.params.uregResetValue]) :: rs) (runLines (doReset ++ rest) s) =
      drain rs (runLines rest (deviceReset rest rs s)) := by
  have sent := drain_sendReset_ok busy (.settleDelay :: .reload :: .checkReset :: rest)
    (some (.ok [s.params.uregResetValue]) :: rs)
  rw [runLines_done (m := .settleDelay) rfl] at sent
  refine sent.trans ((drain_reload_ok ?_ (.checkReset :: rest) rs ?_ s.params.uregResetValue).trans ?_)
  · exact busy
  · rfl
  rw [runLines_done (startLine_checkReset_of_eq rfl)]
  rfl

/-! ### A BEGIN as far as its serial-number read -/

/-- The oracle entries of the clearing of the heater bit in the byte `u`: a write only when it is set
(41_register_cache R117). -/
def heaterReplies (u : Byte) : List Reply := if u.getLsbD 2 then [some (.ok [])] else []

/-- The trace of that clearing. -/
def heaterEvents (u : Byte) : List Event :=
  if u.getLsbD 2 then [.sendByte 0x00E6 (u &&& 0xFB) (.ok [])] else []

theorem withHeater_false (u : Byte) : withHeater u false = u &&& 0xFB := BitVec.or_zero

/-- With a valid shadow and `LASTRES` 0, `DoSetHeater(0)` writes only when the heater bit is set, and the lines
after it follow; `phase` is where the block last stood (41_register_cache R117). -/
theorem drain_clearHeater {s : State} (busy : s.busy = true) (valid : s.uvalid = true)
    (code : s.lastres = 0) (rest : List Micro) {rs : List Reply}
    (answers : s.replies = heaterReplies s.ureg ++ rs) :
    ∃ phase, drain (heaterReplies s.ureg ++ rs) (runLines (doSetHeater false ++ rest) s) =
      drain rs (runLines rest { s with
        replies := rs, uvalid := !s.ureg.getLsbD 2, trace := s.trace ++ heaterEvents s.ureg
        seq := { s.seq with phase := phase } }) := by
  have lines : runLines (doSetHeater false ++ rest) s = runLines (.changeHeater false :: rest) s :=
    runLines_done (startLine_reload_of_valid valid)
  rw [lines]
  cases heat : s.ureg.getLsbD 2 with
  | false =>
    refine ⟨s.seq.phase, ?_⟩
    simp only [heaterReplies, heaterEvents, heat, Bool.false_eq_true, if_false, List.nil_append,
      List.append_nil, Bool.not_false] at answers ⊢
    rw [runLines_done (startLine_changeHeater_of_eq heat), ← valid, ← answers]
  | true =>
    refine ⟨.changeHeater false :: rest, ?_⟩
    have other : heatOf s.ureg ≠ false := by simp [heatOf, heat]
    simp only [heaterReplies, heaterEvents, heat, if_true, Bool.not_true]
    refine (drain_changeHeater_ok busy rest rs other).trans ?_
    rw [withHeater_false, ← code]
    rfl

/-- The state in which a BEGIN comes to its serial-number read: the device is reset, its heater off and the
mode flags are written (45_lifecycle R185). -/
def serialEntered (hm : Bool) (rs : List Reply) (s : State) : State :=
  let v := s.params.uregResetValue
  let accepted := accept (encode (.begin hm)) s
  { accepted with
    replies := rs, begun := false, hold := hm, typ := false, ureg := v, uvalid := !v.getLsbD 2
    lastres := 0
    trace := s.trace ++
      [.setAddr 0x40, .send 0x00FE (.ok []), .delay s.params.resetSettleMs, .recv 0x00E7 1 (.ok [v])] ++
      heaterEvents v
    seq := { accepted.seq with frame := [v] } }

/-- A BEGIN whose reset and heater write succeed comes to its serial-number read. -/
theorem exec_begin_serialEntered {hm : Bool} {s : State} {rs : List Reply} (idle : s.busy = false)
    (answers : s.replies = some (.ok []) :: some (.ok [s.params.uregResetValue]) ::
      (heaterReplies s.params.uregResetValue ++ rs)) :
    exec (.begin hm) s = .next (drain rs
      (runLines [.readSnb, .readSnac, .setBegun] (serialEntered hm rs s))) := by
  let modes : List Micro := [.initModes hm, .readSnb, .readSnac, .setBegun]
  let opened := emit (.setAddr devAddr) { accept (encode (.begin hm)) s with begun := false }
  let back := deviceReset (doSetHeater false ++ modes) (heaterReplies s.params.uregResetValue ++ rs) opened
  have opens : runLines (linesOf (.begin hm)) (accept (encode (.begin hm)) s) =
      runLines (doReset ++ (doSetHeater false ++ modes)) opened := rfl
  have resets := drain_doReset_ok (s := opened) rfl (doSetHeater false ++ modes)
    (heaterReplies s.params.uregResetValue ++ rs)
  obtain ⟨phase, clears⟩ := drain_clearHeater (s := back) rfl rfl rfl modes (rs := rs) rfl
  rw [exec_hostOp rfl, hostOp_runs idle (by simp [needsBegun]), answers, opens]
  refine congrArg _ (resets.trans (clears.trans ?_))
  simp only [back, opened, deviceReset, serialEntered, emit_trace, accept_trace, List.append_assoc]
  rfl

/-! ### A BEGIN that fails in its serial-number read -/

theorem encode_begin (hm : Bool) :
    encode (.begin hm) = 0x0100#16 ||| (BitVec.ofBool hm).setWidth 16 := by
  cases hm <;> rfl

/-- An error of a BEGIN leaves `RESULT` as it is (60_exceptions R204). -/
theorem raiseError_begin {hm : Bool} {s : State} (k : ErrKind)
    (latched : s.seq.op = some (opOf (encode (.begin hm)))) : raiseError k s = finish k s := by
  have unchanged : failureOutput s.seq.op s.result = s.result := by
    rw [latched]
    cases hm <;> rfl
  rw [raiseError, unchanged]

/-- What an unusable answer `a` in the serial-number read leaves of the BEGIN, `got` being the events of the
read, `frame` and `snbtmp` what it left in the sequencer (45_lifecycle R194, 60_exceptions R208). -/
def serialFailed (hm : Bool) (rs : List Reply) (a : Answer) (got : List Event) (frame : List Byte)
    (snbtmp : Word32) (s : State) : State :=
  let entered := serialEntered hm rs s
  ended (encode (.begin hm)) .serialNumber { s with
    replies := rs, begun := false, hold := hm, typ := false, ureg := entered.ureg, uvalid := entered.uvalid
    lastres := answerCode a, trace := entered.trace ++ got
    seq := { s.seq with frame := frame, snbtmp := snbtmp } }

section failing
variable {hm : Bool} {s : State} {a : Answer} {rs : List Reply}

/-- Part B gives no serial number: no further call is made. -/
theorem exec_begin_snb_unusable (idle : s.busy = false) (unusable : Unusable 8 parseSnb a)
    (answers : s.replies = some (.ok []) :: some (.ok [s.params.uregResetValue]) ::
      (heaterReplies s.params.uregResetValue ++ some a :: rs)) :
    exec (.begin hm) s = .next (serialFailed hm rs a [.recv 0xFA0F 8 a]
      (heardFrame (.recv .readSnb 8) a [s.params.uregResetValue]) s.seq.snbtmp s) := by
  rw [exec_begin_serialEntered idle answers, drain_readSnb_unusable rfl unusable,
    raiseError_begin (hm := hm) _ (heard_seq_op ..), snbHeard, heard_eq]
  rfl

/-- Part B is good and part A/C gives no serial number. -/
theorem exec_begin_snac_unusable {b : List Byte} {snb : Word32} (idle : s.busy = false)
    (length : b.length = 8) (parsed : parseSnb b = some snb) (unusable : Unusable 6 parseSnac a)
    (answers : s.replies = some (.ok []) :: some (.ok [s.params.uregResetValue]) ::
      (heaterReplies s.params.uregResetValue ++ some (.ok b) :: some a :: rs)) :
    exec (.begin hm) s = .next (serialFailed hm rs a [.recv 0xFA0F 8 (.ok b), .recv 0xFCC9 6 a]
      (heardFrame (.recv .readSnac 6) a b) snb s) := by
  have traced := List.append_cons (serialEntered hm rs s).trace (.recv 0xFA0F 8 (.ok b)) [.recv 0xFCC9 6 a]
  rw [exec_begin_serialEntered idle answers, drain_readSnb_parsed rfl length parsed,
    drain_readSnac_unusable rfl unusable, raiseError_begin (hm := hm) _ (heard_seq_op ..), snacHeard,
    heard_eq, serialFailed, traced]
  rfl

end failing

/-- Settles O35: a failed call and a frame that does not parse are both unusable answers, to the read of
part B in the first two clauses and of part A/C in the last two. -/
theorem beginFailsInSerialRead : Obligations.BeginFailsInSerialRead := by
  intro s hm idle v w toSerial opened left
  have word : w = encode (.begin hm) := (encode_begin hm).symm
  rw [word]
  refine ⟨fun a e rest fails answers => ?_, fun b rest length unparsed answers => ?_,
    fun b snb a e rest length parsed fails answers => ?_,
    fun b c snb rest length length' parsed unparsed answers => ?_⟩
  · rw [exec_begin_snb_unusable idle (unusable_of_failsWith fails) answers, serialFailed,
      heardFrame_of_failsWith _ fails, answerCode_of_failsWith fails]
    rfl
  · exact exec_begin_snb_unusable idle (unusable_of_unparsed length unparsed) answers
  · rw [exec_begin_snac_unusable idle length parsed (unusable_of_failsWith fails) answers, serialFailed,
      heardFrame_of_failsWith _ fails, answerCode_of_failsWith fails]
    rfl
  · exact exec_begin_snac_unusable idle length parsed (unusable_of_unparsed length' unparsed) answers

end Sys2Proof.Machine
end

section
/-! PROOFS. The encoding (30_encoding R71, R85 to R89): an instruction read back from its word, and the
words that are instructions. -/

namespace Sys2Proof.Machine

/-! ### A word of the opcode table -/

theorem decodeTableWord_toNat (n : Nat) (w : Word16) :
    decodeTableWord n w.toNat = (decodeWord n w).toOption := by
  rw [decodeTableWord, BitVec.ofNat_toNat, BitVec.setWidth_eq]

theorem decodeTableWord_of_decodeHost {w : Word16} {i : Instr} (h : decodeHost w = .ok i) :
    decodeTableWord 16 w.toNat = some i := by
  simp only [decodeTableWord_toNat, decodeWord, h, Except.toOption]

theorem decodeTableWord_wire (w : Wire) : decodeTableWord w.width w.code.toNat = some w.instr := by
  cases w <;> rfl

/-! ### The word of a host operation -/

theorem decodeHost_opcode_wrreg (v : Byte) :
    decodeHost (0x11#8 ++ v) = withArg 0xFF v (.wrreg v) := by
  simp only [decodeHost, opOf_append, argOf_append]
  rfl

/-- The word of a host operation is read back as it, whatever its operand (30_encoding R86, R87). -/
theorem decodeHost_encode {i : Instr} (host : wireOf i = none) : decodeHost (encode i) = .ok i := by
  cases i <;> first | rfl | skip
  case begin hm => cases hm <;> rfl
  case wrreg v => exact (decodeHost_opcode_wrreg v).trans (withArg_all _ _)
  case setres r1 r0 => cases r1 <;> cases r0 <;> rfl
  case setheat en => cases en <;> rfl
  case sethold hm => cases hm <;> rfl
  case settyp t => cases t <;> rfl
  case chkcrc c => exact (decodeHost_opcode_chkcrc c).trans (withArg_all _ _)
  all_goals cases host

/-- Settles O1: the words of host operations and the wire codes share no value, so each is read by its own
table. -/
theorem decodeOfEncode : Obligations.DecodeOfEncode := by
  intro i
  cases wire : wireOf i with
  | none =>
    have long : width i = 16 := by cases i <;> first | rfl | cases wire
    rw [long, decodeTableWord_of_decodeHost (decodeHost_encode wire)]
  | some w =>
    obtain rfl := wireOf_eq_some wire
    have code := decodeTableWord_wire w
    cases w <;> exact code
end Sys2Proof.Machine
end

section
/-! PROOFS. Command words (30_encoding R86, R89), what the machine does with one (20_memory R55), and the host's
access to the register file (10_state R11). -/

namespace Sys2Proof.Machine

/-! ### The words that are instructions -/

theorem withArg_eq_ok {used arg : Byte} {i j : Instr} (h : withArg used arg i = .ok j) :
    arg &&& ~~~used = 0 ∧ i = j := by
  unfold withArg at h
  split at h
  · exact ⟨‹_›, Except.ok.inj h⟩
  · cases h

/-- An operand byte that uses bit 0 alone is read from that bit (30_encoding R87). -/
theorem argBit_of_unused {arg : Byte} (unused : arg &&& ~~~0x01 = 0) : argBit (arg.getLsbD 0) = arg := by
  revert arg; decide

/-- An operand byte that uses bits 1 and 0 alone is read from them (30_encoding R87). -/
theorem argBits_of_unused {arg : Byte} (unused : arg &&& ~~~0x03 = 0) :
    argBits (arg.getLsbD 1) (arg.getLsbD 0) = arg := by
  revert arg; decide

theorem arg_of_all_unused {arg : Byte} (unused : arg &&& ~~~0x00 = 0) : 0x00 = arg := by
  rw [show ~~~(0x00 : Byte) = BitVec.allOnes 8 from rfl, BitVec.and_allOnes] at unused
  exact unused.symm

theorem opOf_append_argOf (w : Word16) : opOf w ++ argOf w = w :=
  BitVec.extractLsb'_append_extractLsb'_eq_extractLsb' (by decide) |>.trans (by simp)

theorem eq_ofNat_of_toNat {op : Byte} {n : Nat} (value : op.toNat = n) : op = BitVec.ofNat 8 n := by
  rw [← value, BitVec.ofNat_toNat, BitVec.setWidth_eq]

/-- An accepted word is the word of the host operation read from it: its opcode is the row's, and the operand
byte uses no bit but the operation's (30_encoding R86, R89). -/
theorem encode_of_decodeHost {w : Word16} {i : Instr} (accepted : decodeHost w = .ok i) :
    encode i = w ∧ wireOf i = none := by
  rw [← opOf_append_argOf w]
  unfold decodeHost at accepted
  dsimp only at accepted
  generalize opOf w = op at accepted ⊢
  generalize argOf w = arg at accepted ⊢
  split at accepted
  case h_22 => cases accepted
  all_goals
    rename_i opcode
    obtain ⟨unused, rfl⟩ := withArg_eq_ok accepted
    obtain rfl := eq_ofNat_of_toNat opcode
    refine ⟨congrArg (commandWord _) ?_, rfl⟩
    first
      | exact arg_of_all_unused unused
      | exact argBit_of_unused unused
      | exact argBits_of_unused unused
      | rfl

/-- A word is legal when its opcode has a row of the map and its operand byte uses no bit but the row's. -/
theorem wordLegal_append (op arg : Byte) :
    wordLegal (op ++ arg) = true ↔ ∃ row ∈ opcodeMap, op = row.1 ∧ arg &&& ~~~row.2 = 0 := by
  have fields : (op ++ arg).extractLsb' 8 8 = op ∧ (op ++ arg).extractLsb' 0 8 = arg :=
    ⟨opOf_append op arg, argOf_append op arg⟩
  simp only [wordLegal, List.any_eq_true, Bool.and_eq_true, beq_iff_eq, fields]

/-- The word of a host operation has a row of the map and sets no reserved operand bit. -/
theorem wordLegal_encode {i : Instr} (host : wireOf i = none) : wordLegal (encode i) = true := by
  cases i <;> first | rfl | skip
  case begin hm => cases hm <;> rfl
  case wrreg v => exact (wordLegal_append _ v).mpr ⟨(0x11, 0xFF), by decide, rfl, BitVec.and_zero⟩
  case setres r1 r0 => cases r1 <;> cases r0 <;> rfl
  case setheat en => cases en <;> rfl
  case sethold hm => cases hm <;> rfl
  case settyp t => cases t <;> rfl
  case chkcrc c => exact (wordLegal_append _ c).mpr ⟨(0x31, 0xFF), by decide, rfl, BitVec.and_zero⟩
  all_goals cases host

/-- Each row of the map is read as one operation, when the operand byte is one of the row's. -/
theorem decodeHost_row (arg : Byte) :
    ∀ row ∈ opcodeMap, ∃ i, decodeHost (row.1 ++ arg) = withArg row.2 arg i := by
  simp only [opcodeMap, List.forall_mem_cons, decodeHost, opOf_append, argOf_append]
  and_intros
  all_goals first | exact ⟨_, rfl⟩ | exact nofun

theorem exists_decodeHost_iff (w : Word16) : (∃ i, decodeHost w = .ok i) ↔ wordLegal w = true := by
  constructor
  · rintro ⟨i, accepted⟩
    obtain ⟨rfl, host⟩ := encode_of_decodeHost accepted
    exact wordLegal_encode host
  · rw [← opOf_append_argOf w, wordLegal_append]
    rintro ⟨row, mem, opcode, unused⟩
    obtain ⟨i, read⟩ := decodeHost_row (argOf w) row mem
    exact ⟨i, by rw [opcode, read, withArg, if_pos unused]⟩

/-- Settles O2: the rows of the map are the cases of the decoder, and in each the operand read back is the
operand byte. -/
theorem decodedWordsAreLegal : Obligations.DecodedWordsAreLegal :=
  fun w => ⟨exists_decodeHost_iff w, fun _ => encode_of_decodeHost⟩

/-- Settles O3: the six words are the words of their instructions. -/
theorem sampleWordsDecode : Obligations.SampleWordsDecode :=
  ⟨decodeOfEncode (.setres true false), decodeOfEncode (.begin true), decodeOfEncode (.wrreg 0x83),
    decodeOfEncode .measT, decodeOfEncode .wWriteUreg, decodeOfEncode .wReadSnac⟩

/-! ### What the machine does with a command word -/

theorem wireOf_instr (w : Wire) : wireOf w.instr = some w := by cases w <;> rfl

/-- A code of a wire command is read as that command (30_encoding R71). -/
theorem wireOf_of_decodeWire {n : Nat} {w : Word16} {i : Instr} (accepted : decodeWire n w = .ok i) :
    wireOf i ≠ none := by
  unfold decodeWire at accepted
  split at accepted <;> cases accepted <;> exact nofun

theorem decodeHost_of_decodeTableWord {w : Word16} {i : Instr} (host : wireOf i = none)
    (read : decodeTableWord 16 w.toNat = some i) : decodeHost w = .ok i := by
  rw [decodeTableWord_toNat, decodeWord] at read
  cases command : decodeHost w with
  | ok j => simpa [command, Except.toOption] using read
  | error r =>
    simp only [command] at read
    cases wire : decodeWire 16 w with
    | ok j =>
      obtain rfl : j = i := by simpa [wire, Except.toOption] using read
      exact absurd host (wireOf_of_decodeWire wire)
    | error r' => simp [wire, Except.toOption] at read

section commands
variable {s : State} {v : Word32} {rest : List HostAct} (write : s.host = .write 0 v :: rest)
include write

theorem step_of_command {i : Instr} (read : decodeHost (v.setWidth 16) = .ok i) :
    step s = exec i { s with host := rest } :=
  step_of_instr (by rw [fetch_command write, fetchCommand, read])

theorem step_of_rejected {r : Reject} (rejected : decodeHost (v.setWidth 16) = .error r) :
    step s = illegalWord (v.setWidth 16) { s with host := rest } :=
  step_of_plain (by rw [fetch_command write, fetchCommand, rejected])

end commands

/-- Settles O4: the 16 bits that `CMD` takes decode to the host operation alone. -/
theorem stepRunsCommandWord : Obligations.StepRunsCommandWord := by
  intro s v rest i write read host
  rw [← BitVec.toNat_setWidth 16 v] at read
  exact step_of_command write (decodeHost_of_decodeTableWord host read)

/-- Settles O5: the block at a call is busy, and the code of the call's wire command is read back as it. -/
theorem stepRunsWireCommand : Obligations.StepRunsWireCommand := by
  intro s c waits pending
  obtain ⟨busy, -⟩ := pendingCall_eq_some.mp pending
  refine ⟨decodeTableWord_wire _, step_of_instr ?_⟩
  rw [fetch_busy waits busy, fetchWire_of_pending pending]

theorem decodeHost_eq_error {w : Word16} (illegal : wordLegal w = false) :
    ∃ r, decodeHost w = .error r := by
  cases read : decodeHost w with
  | error r => exact ⟨r, rfl⟩
  | ok i => simp [(exists_decodeHost_iff w).mp ⟨i, read⟩] at illegal

/-- Settles O6: an illegal word is accepted and ends at once. -/
theorem illegalWordEndsWithSix : Obligations.IllegalWordEndsWithSix := by
  intro s v rest write idle illegal
  obtain ⟨r, rejected⟩ := decodeHost_eq_error illegal
  rw [step_of_rejected write rejected, illegalWord, if_neg (by simp [idle])]
  rfl

/-- The operations that need `BEGUN` are host operations (30_encoding R88). -/
theorem wireOf_of_needsBegun {i : Instr} (needs : needsBegun i = true) : wireOf i = none := by
  cases i <;> first | rfl | cases needs

/-- Settles O7: the precondition is tested before the first line (30_encoding R88). -/
theorem notBegunEndsWithSeven : Obligations.NotBegunEndsWithSeven := by
  intro i s needs idle notBegun
  rw [exec_hostOp (wireOf_of_needsBegun needs), needs, hostOp_notBegun idle notBegun]
  rfl

/-- Settles O8: a host operation, an illegal word and a write to `PAYLOAD` all test `BUSY` first. -/
theorem writeWhileBusyRefused : Obligations.WriteWhileBusyRefused := by
  intro s busy
  have refused : ∀ (i : Instr) (t : State), wireOf i = none → t.busy = true →
      exec i t = .refused .hostWriteWhileBusy := fun i t host busy => by
    rw [exec_hostOp host, hostOp_busy busy]
  refine ⟨fun i host => refused i s host busy, fun v rest write => ?_, fun v rest write => ?_⟩
  · cases read : decodeHost (v.setWidth 16) with
    | ok i =>
      obtain ⟨-, host⟩ := encode_of_decodeHost read
      exact (step_of_command write read).trans (refused i _ host busy)
    | error r => rw [step_of_rejected write read, illegalWord, if_pos busy]
  · rw [step_of_plain (fetch_payload write), writePayload, if_pos busy]

/-! ### The register file and the mode flags -/

theorem readIsOpen_eq_false {s : State} {i : Nat} (shown : s.busy = false ∨ i = 2 ∨ 10 ≤ i) :
    readIsOpen s i = false := by
  rcases shown with idle | rfl | absent
  · simp [readIsOpen, idle]
  · simp [readIsOpen]
  · simp [readIsOpen, absent]

/-- Settles O9: every read that is not free shows the register. -/
theorem hostRegisterAccess : Obligations.HostRegisterAccess := by
  refine ⟨fun s i rest read => ⟨fun shown => ?_, ?_⟩, fun s v rest write idle => ?_,
    fun s i v rest above write => ?_⟩
  · have closed : readIsOpen { s with host := rest } i = false := readIsOpen_eq_false shown
    rw [step_of_plain (fetch_read read), hostRead, hostValue, closed]
    rfl
  · rw [step_of_plain (fetch_read read)]
    exact ⟨_, _, rfl⟩
  · rw [step_of_plain (fetch_payload write), writePayload, if_neg (by simp [idle])]
  · obtain ⟨k, rfl⟩ := Nat.exists_eq_add_of_le' above
    exact step_of_plain (fetch_otherWrite write)

/-- Settles O11: each clause is a value of the reset state; idle, with an empty trace, it meets the
invariants. -/
theorem powerOnValues : Obligations.PowerOnValues := by
  have sequencer : SeqInv State.reset := ⟨fun _ => ⟨rfl, rfl, rfl⟩, nofun⟩
  have bounds : BoundsInv State.reset := ⟨Nat.zero_le 3, Nat.zero_le 8⟩
  have legal : TraceInv State.reset := nofun
  exact ⟨rfl, rfl, rfl, rfl, rfl, rfl, rfl, rfl, rfl, rfl, rfl, rfl, rfl, rfl, rfl, rfl, rfl, rfl,
    sequencer, bounds, legal, rfl, rfl⟩

theorem encode_sethold (b : Bool) :
    encode (.sethold b) = 0x1C00#16 ||| (BitVec.ofBool b).setWidth 16 := by cases b <;> rfl

theorem encode_settyp (b : Bool) :
    encode (.settyp b) = 0x1D00#16 ||| (BitVec.ofBool b).setWidth 16 := by cases b <;> rfl

/-- Settles O29: SETHOLD and SETTYP are each one line without a call, and need no BEGIN. -/
theorem modeFlagsWritten : Obligations.ModeFlagsWritten := by
  intro s b idle
  rw [← encode_sethold, ← encode_settyp]
  exact ⟨(exec_of_one_line (m := .putHold b) rfl rfl rfl idle rfl).trans rfl,
    (exec_of_one_line (m := .putTyp b) rfl rfl rfl idle rfl).trans rfl⟩

end Sys2Proof.Machine
end

section
/-! PROOFS. What every step keeps: the calls are legal, `LASTRES` and the shadow follow the trace, the
counters stay in bounds (10_state R14, R24, R25, 30_encoding R92). -/

namespace Sys2Proof.Machine

/-! ### The events of a line -/

/-- What a line adds to the trace before its call: only the lines without one that set the address or wait. -/
def startEvents (m : Micro) (s : State) : List Event :=
  match m with
  | .setAddress => [.setAddr devAddr]
  | .settleDelay => [.delay s.params.resetSettleMs]
  | _ => []

theorem startLine_trace (m : Micro) (s : State) :
    (stateOf (startLine m s)).trace = s.trace ++ startEvents m s := by
  cases m <;> simp only [startLine, startEvents, List.append_nil] <;> first | rfl | (split <;> rfl)

/-- After its call is answered a line adds no call to the trace, only the delay between two polls
(43_measurement R149). -/
theorem answerLine_trace (m : Micro) (a : Answer) (s : State) :
    ∃ tr, (stateOf (answerLine m a s)).trace = s.trace ++ tr ∧ (tr = [] ∨ tr = [.delay s.seq.ct.toNat]) := by
  by_cases measures : ∃ kind, m = .attempts kind
  · obtain ⟨kind, rfl⟩ := measures
    obtain ⟨_, _, _, tr, left, -, events⟩ := stateOf_measureAnswer kind a s
    exact ⟨tr, congrArg State.trace left, events⟩
  · refine ⟨[], ?_, .inl rfl⟩
    rw [List.append_nil]
    cases m <;> simp only [answerLine, writeAnswer]
    case attempts kind => exact absurd ⟨kind, rfl⟩ measures
    all_goals first | rfl | ((repeat' split) <;> rfl)

/-- The calls of a measurement are among the nine wire commands (30_encoding R73). -/
theorem eventLegal_cmdMeasure {a : Answer} (kind : Kind) (hold : Bool) :
    (answerLegal 0 a = true → eventLegal (callEvent (.send (cmdMeasure kind hold)) a) = true) ∧
      (answerLegal 3 a = true → eventLegal (callEvent (.recv (cmdMeasure kind hold) 3) a) = true) := by
  cases kind <;> cases hold <;> exact ⟨id, id⟩

/-- Every call of a line is one of the nine wire commands with its function and byte count
(30_encoding R71, R92). -/
theorem eventLegal_callEvent {m : Micro} {s : State} {c : Call} {a : Answer} (call : callOf m s = some c)
    (legal : answerLegal (callCount c) a = true) : eventLegal (callEvent c a) = true := by
  cases m <;> simp only [callOf, reduceCtorEq] at call
  case attempts kind =>
    obtain ⟨send, recv⟩ := eventLegal_cmdMeasure (a := a) kind s.hold
    split at call
    case h_1 => cases call; exact recv legal
    case h_2 => cases call; exact recv legal
    case h_3 => cases call; exact send legal
  case reload => split at call <;> cases call; exact legal
  case changeResolution r1 r0 => split at call <;> cases call; exact legal
  case changeHeater en => split at call <;> cases call; exact legal
  all_goals cases call; exact legal

/-! ### Legal traces -/

theorem TraceInv.append {s t : State} {tr : List Event} (inv : TraceInv s)
    (legal : ∀ e ∈ tr, eventLegal e = true) (trace : t.trace = s.trace ++ tr) : TraceInv t := by
  intro e mem
  rw [trace] at mem
  exact (List.mem_append.mp mem).elim (inv e) (legal e)

theorem eventLegal_of_delay {tr : List Event} {ms : Nat} (only : tr = [] ∨ tr = [.delay ms]) :
    ∀ e ∈ tr, eventLegal e = true := by
  rcases only with rfl | rfl <;> simp [eventLegal]

theorem eventLegal_startEvents (m : Micro) (s : State) : ∀ e ∈ startEvents m s, eventLegal e = true := by
  cases m <;> simp [startEvents, eventLegal, devAddr]

theorem kept_traceInv : Kept (fun _ => True) TraceInv where
  start m s _ inv := inv.append (eventLegal_startEvents m s) (startLine_trace m s)
  answer m c a s _ call inv := by
    obtain ⟨tr, trace, only⟩ := answerLine_trace m (deliver (callCount c) a) (heard c (deliver (callCount c) a) s)
    refine TraceInv.append ?_ (eventLegal_of_delay only) trace
    refine inv.append ?_ (heard_trace c _ s)
    rintro e (_ | ⟨_, ⟨⟩⟩)
    exact eventLegal_callEvent call (deliver_legal _ a)
  phase _ _ inv := inv
  replies _ _ inv := inv
  output _ _ inv := inv
  finish _ _ inv := inv

/-- Settles O52: a line adds its call with the answer delivered to it, and delays. -/
theorem stepKeepsTraceLegal : Obligations.StepKeepsTraceLegal := fun _ _ inv next =>
  kept_traceInv.step (fun _ _ inv => inv) (fun _ _ inv => inv) (fun _ _ inv => inv)
    (fun _ _ _ inv => inv) inv next

/-! ### What no line writes -/

/-- From `s` to `t` the fields that no line of pseudocode writes are left: the parameters, the command word and
its operand, the inputs, what the host sees of an operation, and which operation it is. -/
structure SameOperation (s t : State) : Prop where
  params : t.params = s.params
  cmd : t.cmd = s.cmd
  payload : t.payload = s.payload
  busy : t.busy = s.busy
  err : t.err = s.err
  lastres : t.lastres = s.lastres
  host : t.host = s.host
  replies : t.replies = s.replies
  after : t.after = s.after
  readData : t.readData = s.readData
  freeReads : t.freeReads = s.freeReads
  op : t.seq.op = s.seq.op
  arg : t.seq.arg = s.seq.arg

theorem SameOperation.refl (s : State) : SameOperation s s := by
  constructor <;> rfl

theorem sameOperation_startLine (m : Micro) (s : State) : SameOperation s (stateOf (startLine m s)) := by
  have self := SameOperation.refl s
  cases m <;> simp only [startLine]
  case checkReset => split <;> exact self
  case reload => split <;> exact self
  case changeResolution r1 r0 => split <;> exact self
  case changeHeater en => split <;> exact self
  all_goals constructor <;> rfl

theorem sameOperation_answerLine (m : Micro) (a : Answer) (s : State) :
    SameOperation s (stateOf (answerLine m a s)) := by
  by_cases measures : ∃ kind, m = .attempts kind
  · obtain ⟨kind, rfl⟩ := measures
    obtain ⟨_, _, _, tr, left, -, -⟩ := stateOf_measureAnswer kind a s
    rw [answerLine, left]
    constructor <;> rfl
  · cases m <;> simp only [answerLine, writeAnswer]
    case attempts kind => exact absurd ⟨kind, rfl⟩ measures
    all_goals
      (repeat' split)
      all_goals constructor <;> rfl

/-! ### The last result code -/

theorem lastCode_append (xs ys : List Event) : lastCode (xs ++ ys) = ys.foldl codeAfter (lastCode xs) :=
  List.foldl_append

/-- Delays and the address call leave the last result code (10_state R24). -/
theorem foldl_codeAfter_startEvents (m : Micro) (s : State) (code : Byte) :
    (startEvents m s).foldl codeAfter code = code := by
  cases m <;> rfl

theorem foldl_codeAfter_of_delay {tr : List Event} {ms : Nat} (only : tr = [] ∨ tr = [.delay ms])
    (code : Byte) : tr.foldl codeAfter code = code := by
  rcases only with rfl | rfl <;> rfl

theorem codeAfter_callEvent (c : Call) (a : Answer) (code : Byte) :
    codeAfter code (callEvent c a) = answerCode a := by
  cases c <;> rfl

theorem kept_lastresInv : Kept (fun _ => True) LastresInv where
  start m s _ inv := by
    rw [LastresInv, (sameOperation_startLine m s).lastres, startLine_trace, lastCode_append,
      foldl_codeAfter_startEvents]
    exact inv
  answer m c a s _ _ _ := by
    generalize deliver (callCount c) a = answer
    obtain ⟨tr, trace, only⟩ := answerLine_trace m answer (heard c answer s)
    rw [LastresInv, (sameOperation_answerLine m _ _).lastres, trace, lastCode_append,
      foldl_codeAfter_of_delay only, heard_trace, lastCode_append, heard_lastres]
    exact (codeAfter_callEvent c answer _).symm
  phase _ _ inv := inv
  replies _ _ inv := inv
  output _ _ inv := inv
  finish _ _ inv := inv

/-- Settles O54: every answered call sets `LASTRES` to its code, and no other event of a line is an answered
call. -/
theorem stepKeepsLastresCurrent : Obligations.StepKeepsLastresCurrent := fun _ _ inv next =>
  kept_lastresInv.step (fun _ _ inv => inv) (fun _ _ inv => inv) (fun _ _ inv => inv)
    (fun _ _ _ inv => inv) inv next

/-! ### The shadow -/

/-- The shadow as the state has it. -/
def shadowIn (s : State) : Option Byte := if s.uvalid then some s.ureg else none

theorem shadowOf_append (xs ys : List Event) : shadowOf (xs ++ ys) = ys.foldl shadowAfter (shadowOf xs) :=
  List.foldl_append

theorem foldl_shadowAfter_startEvents (m : Micro) (s : State) (shadow : Option Byte) :
    (startEvents m s).foldl shadowAfter shadow = shadow := by
  cases m <;> rfl

theorem foldl_shadowAfter_of_delay {tr : List Event} {ms : Nat} (only : tr = [] ∨ tr = [.delay ms])
    (shadow : Option Byte) : tr.foldl shadowAfter shadow = shadow := by
  rcases only with rfl | rfl <;> rfl

theorem shadowIn_startLine (m : Micro) (s : State) : shadowIn (stateOf (startLine m s)) = shadowIn s := by
  cases m <;> simp only [startLine] <;> first | rfl | (split <;> rfl)

theorem shadowIn_heard (c : Call) (a : Answer) (s : State) : shadowIn (heard c a s) = shadowIn s := by
  simp only [shadowIn, heard_uvalid, heard_ureg]

/-- Neither call of a measurement touches the shadow (20_memory R58). -/
theorem shadowAfter_cmdMeasure (kind : Kind) (hold : Bool) (a : Answer) (shadow : Option Byte) :
    shadowAfter shadow (callEvent (.send (cmdMeasure kind hold)) a) = shadow ∧
      shadowAfter shadow (callEvent (.recv (cmdMeasure kind hold) 3) a) = shadow := by
  cases kind <;> cases hold <;> cases a <;> exact ⟨rfl, rfl⟩

/-- The commands of a measurement and of the serial number do not touch the shadow; the others do to it what
the line does with the answer (20_memory R58). -/
theorem shadowIn_answerLine {m : Micro} {c : Call} {a : Answer} {s t : State} (call : callOf m s = some c)
    (same : shadowIn t = shadowIn s) :
    shadowIn (stateOf (answerLine m a t)) = shadowAfter (shadowIn s) (callEvent c a) := by
  rw [← same]
  cases m <;> simp only [callOf, reduceCtorEq] at call
  case attempts kind =>
    obtain ⟨_, _, _, tr, left, -, -⟩ := stateOf_measureAnswer kind a t
    obtain ⟨send, recv⟩ := shadowAfter_cmdMeasure kind s.hold a (shadowIn t)
    rw [answerLine, left]
    split at call
    case h_1 => cases call; exact recv.symm
    case h_2 => cases call; exact recv.symm
    case h_3 => cases call; exact send.symm
  case reload =>
    split at call <;> cases call
    cases a <;> rfl
  case changeResolution r1 r0 =>
    split at call <;> cases call
    cases a <;> rfl
  case changeHeater en =>
    split at call <;> cases call
    cases a <;> rfl
  all_goals
    cases call
    cases a <;> simp only [answerLine, writeAnswer] <;> (try split) <;> rfl

theorem kept_shadowInv : Kept (fun _ => True) ShadowInv where
  start m s _ inv := by
    have same := shadowIn_startLine m s
    rw [ShadowInv, startLine_trace, shadowOf_append, foldl_shadowAfter_startEvents]
    exact inv.trans same.symm
  answer m c a s _ call inv := by
    generalize deliver (callCount c) a = answer
    obtain ⟨tr, trace, only⟩ := answerLine_trace m answer (heard c answer s)
    rw [ShadowInv, trace, shadowOf_append, foldl_shadowAfter_of_delay only, heard_trace, shadowOf_append, inv]
    exact (shadowIn_answerLine call (shadowIn_heard c answer s)).symm
  phase _ _ inv := inv
  replies _ _ inv := inv
  output _ _ inv := inv
  finish _ _ inv := inv

/-- Settles O53: the three wire commands that touch the shadow do to `UVALID` and `UREG` what their events do
to the shadow of the trace, and no other line or call touches either. -/
theorem stepKeepsShadowCoherent : Obligations.StepKeepsShadowCoherent := fun _ _ inv next =>
  kept_shadowInv.step (fun _ _ inv => inv) (fun _ _ inv => inv) (fun _ _ inv => inv)
    (fun _ _ _ inv => inv) inv next

/-! ### The bounds -/

theorem callCount_le {m : Micro} {s : State} {c : Call} (call : callOf m s = some c) : callCount c ≤ 8 := by
  cases m <;> simp only [callOf, reduceCtorEq] at call
  case attempts kind => split at call <;> cases call <;> simp [callCount]
  case reload => split at call <;> cases call; simp [callCount]
  case changeResolution r1 r0 => split at call <;> cases call; simp [callCount]
  case changeHeater en => split at call <;> cases call; simp [callCount]
  all_goals cases call; simp [callCount]

/-- An `ok` receive puts as many bytes into the frame buffer as it asked for, another call none
(20_memory R43). -/
theorem heardFrame_length_le {c : Call} {a : Answer} {frame : List Byte} {n : Nat}
    (legal : answerLegal (callCount c) a = true) (asked : callCount c ≤ n) (before : frame.length ≤ n) :
    (heardFrame c a frame).length ≤ n := by
  unfold heardFrame
  split
  · exact (beq_iff_eq.mp legal).trans_le asked
  · exact before

theorem startLine_bounds (m : Micro) (s : State) :
    (stateOf (startLine m s)).seq.frame = s.seq.frame ∧ (stateOf (startLine m s)).seq.att ≤ max s.seq.att 3 := by
  cases m <;> simp only [startLine]
  case enterMeasure kind => exact ⟨rfl, Nat.zero_le _⟩
  case attempts kind => exact ⟨rfl, Nat.le_trans (by decide : 1 ≤ 3) (Nat.le_max_right _ _)⟩
  case checkReset => split <;> exact ⟨rfl, Nat.le_max_left _ _⟩
  case reload => split <;> exact ⟨rfl, Nat.le_max_left _ _⟩
  case changeResolution r1 r0 => split <;> exact ⟨rfl, Nat.le_max_left _ _⟩
  case changeHeater en => split <;> exact ⟨rfl, Nat.le_max_left _ _⟩
  all_goals exact ⟨rfl, Nat.le_max_left _ _⟩

theorem answerLine_bounds (m : Micro) (a : Answer) (s : State) :
    (stateOf (answerLine m a s)).seq.frame = s.seq.frame ∧
      (stateOf (answerLine m a s)).seq.att ≤ max s.seq.att 3 := by
  by_cases measures : ∃ kind, m = .attempts kind
  · obtain ⟨kind, rfl⟩ := measures
    obtain ⟨_, _, _, tr, left, bound, -⟩ := stateOf_measureAnswer kind a s
    rw [answerLine, left]
    exact ⟨rfl, bound⟩
  · cases m <;> simp only [answerLine, writeAnswer]
    case attempts kind => exact absurd ⟨kind, rfl⟩ measures
    all_goals
      (repeat' split)
      all_goals exact ⟨rfl, Nat.le_max_left _ _⟩

theorem kept_boundsInv : Kept (fun _ => True) BoundsInv where
  start m s _ inv := by
    obtain ⟨att, frame⟩ := inv
    obtain ⟨sameFrame, bound⟩ := startLine_bounds m s
    exact ⟨bound.trans (by omega), by rw [sameFrame]; exact frame⟩
  answer m c a s _ call inv := by
    obtain ⟨att, frame⟩ := inv
    obtain ⟨sameFrame, bound⟩ := answerLine_bounds m (deliver (callCount c) a) (heard c (deliver (callCount c) a) s)
    rw [heard_seq_att] at bound
    rw [heard_seq_frame] at sameFrame
    exact ⟨bound.trans (by omega), by
      rw [sameFrame]; exact heardFrame_length_le (deliver_legal _ a) (callCount_le call) frame⟩
  phase _ _ inv := inv
  replies _ _ inv := inv
  output _ _ inv := inv
  finish _ _ inv := inv

theorem step_keeps_boundsInv {s t : State} (inv : BoundsInv s) (next : step s = .next t) : BoundsInv t :=
  kept_boundsInv.step (fun _ _ inv => inv) (fun _ _ inv => inv) (fun _ _ inv => inv)
    (fun _ _ _ inv => inv) inv next

/-! ### An operation in progress -/

/-- An operation is in progress. -/
def InProgress (s : State) : Prop := s.busy = true ∧ s.seq.op ≠ none

theorem SameOperation.inProgress {s t : State} (same : SameOperation s t) (h : InProgress s) :
    InProgress t := by
  obtain ⟨busy, op⟩ := h
  exact ⟨same.busy.trans busy, fun ended => op (same.op.symm.trans ended)⟩

theorem InProgress.heard {s : State} (h : InProgress s) (c : Call) (a : Answer) :
    InProgress (heard c a s) := by
  obtain ⟨busy, op⟩ := h
  exact ⟨(heard_busy c a s).trans busy, fun ended => op ((heard_seq_op c a s).symm.trans ended)⟩

theorem seqInv_finish (k : ErrKind) (s : State) : SeqInv (finish k s) := ⟨fun _ => ⟨rfl, rfl, rfl⟩, nofun⟩

/-- The block stands at a line that makes a call. -/
theorem InProgress.seqInv {s : State} {m : Micro} {rest : List Micro} {c : Call} (h : InProgress s)
    (phase : s.seq.phase = m :: rest) (call : callOf m s = some c) : SeqInv s := by
  obtain ⟨busy, op⟩ := h
  refine ⟨fun idle => absurd (busy.symm.trans idle) (by decide), fun _ => ⟨op, ?_⟩⟩
  rw [pendingCall_eq_some.mpr ⟨busy, m, rest, phase, call⟩]
  exact nofun

theorem InProgress.seqInv_atLine {s : State} {m : Micro} {c : Call} (h : InProgress s) (rest : List Micro)
    (call : callOf m s = some c) : SeqInv { s with seq := { s.seq with phase := m :: rest } } :=
  InProgress.seqInv (s := { s with seq := { s.seq with phase := m :: rest } }) h rfl
    ((callOf_phase m s (m :: rest)).trans call)

/-- The lines of an operation in progress lead to a transport call or to its end. -/
theorem InProgress.seqInv_runLines {s : State} (h : InProgress s) (ms : List Micro) :
    SeqInv (runLines ms s) := by
  induction ms generalizing s with
  | nil => exact seqInv_finish .none s
  | cons m rest ih =>
    have same := sameOperation_startLine m s
    cases started : startLine m s with
    | done t => rw [runLines_done started]; rw [started] at same; exact ih (same.inProgress h)
    | wait t =>
      rw [started] at same
      obtain ⟨c, call⟩ := startLine_wait started
      rw [runLines_wait started]
      exact (same.inProgress h).seqInv_atLine rest call
    | raised k t => rw [runLines_raised started]; exact seqInv_finish k _

/-- So does an answer to the call the block is at; only a measurement can be at another call of its line. -/
theorem InProgress.seqInv_afterLine {s : State} (h : InProgress s) (m : Micro) (rest : List Micro)
    (a : Answer) : SeqInv (afterLine m rest (answerLine m a s)) := by
  have same := sameOperation_answerLine m a s
  cases answered : answerLine m a s with
  | done t => rw [answered] at same; exact (same.inProgress h).seqInv_runLines rest
  | wait t =>
    rw [answered] at same
    obtain ⟨kind, rfl⟩ := answerLine_wait answered
    obtain ⟨c, call⟩ := callOf_attempts kind t
    exact (same.inProgress h).seqInv_atLine rest call
  | raised k t => exact seqInv_finish k _

/-- `SeqInv` does not depend on the inputs. -/
theorem SeqInv.withInputs {s : State} (inv : SeqInv s) (l : List HostAct) (rs : List Reply) :
    SeqInv (s.withInputs l rs) := by
  obtain ⟨idle, busy⟩ := inv
  refine ⟨idle, fun h => ?_⟩
  rw [pendingCall_withInputs]
  exact busy h

theorem SeqInv.inProgress {s : State} (inv : SeqInv s) (busy : s.busy = true) : InProgress s := by
  obtain ⟨-, running⟩ := inv
  obtain ⟨op, -⟩ := running busy
  exact ⟨busy, op⟩

theorem SeqInv.respond {s : State} (inv : SeqInv s) (a : Answer) : SeqInv (respond a s) := by
  unfold Machine.respond
  split
  · rename_i c m rest pending
    obtain ⟨busy, -, -⟩ := pendingLine_eq_some.mp pending
    exact ((inv.inProgress busy).heard c _).seqInv_afterLine m rest _
  · exact inv

theorem SeqInv.drain {s : State} (inv : SeqInv s) (rs : List Reply) : SeqInv (drain rs s) := by
  induction rs generalizing s with
  | nil => exact inv
  | cons r rest ih =>
    have taken : SeqInv { s with replies := rest } := inv.withInputs s.host rest
    cases busy : s.busy with
    | false => rw [drain_idle busy]; exact inv
    | true =>
      cases r with
      | none => rw [drain_blocked busy]; exact taken
      | some a => rw [drain_answer busy]; exact ih (taken.respond a)

theorem inProgress_accept (w : Word16) (s : State) : InProgress (accept w s) := ⟨rfl, nofun⟩

theorem SeqInv.exec {s t : State} {i : Instr} (inv : SeqInv s) (next : exec i s = .next t) : SeqInv t := by
  rcases exec_cases i s with ⟨w, -, wire⟩ | ⟨-, host⟩
  · rw [wire] at next
    obtain ⟨c, -, -, ⟨a, rest, -, rfl⟩ | ⟨rest, -, rfl⟩⟩ := wireOp_next next
    · exact (inv.withInputs s.host rest).respond a
    · exact inv.withInputs s.host rest
  · rw [host] at next
    obtain ⟨-, ⟨-, -, rfl⟩ | ⟨-, rfl⟩⟩ := hostOp_next next
    · exact seqInv_finish .notBegun _
    · exact ((inProgress_accept _ s).seqInv_runLines _).drain _

theorem step_keeps_seqInv {s t : State} (inv : SeqInv s) (next : step s = .next t) : SeqInv t := by
  cases step_next next with
  | command v rest i _ _ he => exact (inv.withInputs rest s.replies).exec he
  | wire c _ _ _ he => exact inv.exec he
  | lines _ hb _ ht => rw [ht]; exact (inv.inProgress hb).seqInv_runLines _
  | illegal v rest r _ _ _ ht => rw [ht]; exact seqInv_finish _ _
  | payload v rest _ _ ht => rw [ht]; exact inv.withInputs rest s.replies
  | otherWrite i v rest _ ht => rw [ht]; exact inv.withInputs rest s.replies
  | read i rest _ ht => rw [ht]; exact inv.withInputs rest s.replies
  | awaited rest _ _ ht => rw [ht]; exact inv.withInputs rest s.replies
  | idle _ _ ht => rw [ht]; exact inv

/-- Settles O51: the lines of an operation lead to a call or to its end, and no line brings a counter out of
its bounds. -/
theorem stepKeepsSequencer : Obligations.StepKeepsSequencer := fun _ _ ⟨sequencer, bounds⟩ next =>
  ⟨step_keeps_seqInv sequencer next, step_keeps_boundsInv bounds next⟩

end Sys2Proof.Machine
end

section
/-! PROOFS. The CRC (40_crc8 R101, R106): it is linear, it can run byte by byte, and it detects a flipped bit;
and the floor of `Compensate` (44_converter R173). -/

namespace Sys2Proof.Machine

/-! ### Linearity -/

/-- The polynomial fed back when a bit is set. -/
def feedback (b : Bool) : Byte := if b then 0x31 else 0

theorem feedback_xor (a b : Bool) : feedback (a ^^ b) = feedback a ^^^ feedback b := by
  cases a <;> cases b <;> rfl

theorem crcStep_eq (c : Byte) (b : Bool) :
    crcStep c b = (c <<< 1) ^^^ (feedback (c.getLsbD 7) ^^^ feedback b) := by
  rw [← feedback_xor, crcStep]
  cases c.getLsbD 7 ^^ b
  · exact BitVec.xor_zero.symm
  · rfl

/-- One round is linear in the register and the bit together. -/
theorem crcStep_xor (c d : Byte) (a b : Bool) :
    crcStep (c ^^^ d) (a ^^ b) = crcStep c a ^^^ crcStep d b := by
  simp only [crcStep_eq, BitVec.getLsbD_xor, feedback_xor, BitVec.shiftLeft_xor_distrib]
  ac_rfl

theorem crcBits_xor (n : Nat) (p q : Word32) (c d : Byte) :
    crcBits n (p ^^^ q) (c ^^^ d) = crcBits n p c ^^^ crcBits n q d := by
  induction n generalizing c d with
  | zero => rfl
  | succ n ih => rw [crcBits, BitVec.getLsbD_xor, crcStep_xor, ih]; rfl

theorem crc8_xor (a b : Word32) : crc8 (a ^^^ b) = crc8 a ^^^ crc8 b := crcBits_xor 32 a b 0 0

/-! ### Byte by byte -/

/-- One of the eight rounds of the byte form feeds no bit. -/
theorem crcRounds_succ (n : Nat) (c : Byte) : crcRounds (n + 1) c = crcRounds n (crcStep c false) := by
  rw [crcRounds, crcStep, Bool.xor_false]

theorem crcRounds_zero_register (n : Nat) : crcRounds n 0 = 0 := by
  induction n with
  | zero => rfl
  | succ n ih => rw [crcRounds_succ]; exact ih

/-- A byte `b` already in the register is fed as its top bit and moves up (40_crc8 R106 e). -/
theorem crcStep_preloaded (c b : Byte) :
    crcStep (c ^^^ b) false = crcStep c (b.getLsbD 7) ^^^ (b <<< 1) := by
  simp only [crcStep_eq, BitVec.getLsbD_xor, feedback_xor, BitVec.shiftLeft_xor_distrib,
    show feedback false = 0#8 from rfl, BitVec.xor_zero]
  ac_rfl

/-- Feeding the low `n` bits one by one is preloading them at the top of the register and running as many
rounds. -/
theorem crcBits_eq_crcRounds {n : Nat} (byte : n ≤ 8) (p : Word32) (c : Byte) :
    crcBits n p c = crcRounds n (c ^^^ (p.setWidth 8 <<< (8 - n))) := by
  induction n generalizing c with
  | zero =>
    have gone : p.setWidth 8 <<< (8 - 0) = 0#8 := BitVec.shiftLeft_eq_zero (by decide)
    rw [gone, BitVec.xor_zero]
    rfl
  | succ n ih =>
    have top : (p.setWidth 8 <<< (8 - (n + 1))).getLsbD 7 = p.getLsbD n := by
      rw [BitVec.getLsbD_shiftLeft, BitVec.getLsbD_setWidth, show 7 - (8 - (n + 1)) = n by omega]
      have kept : n < 8 := byte
      simp [kept]
    have moved : p.setWidth 8 <<< (8 - (n + 1)) <<< 1 = p.setWidth 8 <<< (8 - n) := by
      rw [← BitVec.shiftLeft_add, show 8 - (n + 1) + 1 = 8 - n by omega]
    rw [crcBits, ih (by omega), crcRounds_succ, crcStep_preloaded, top, moved]

theorem crcBits_add (n m : Nat) (p : Word32) (c : Byte) :
    crcBits (n + m) p c = crcBits n p (crcBits m (p >>> n) c) := by
  induction m generalizing c with
  | zero => rfl
  | succ m ih => rw [← Nat.add_assoc, crcBits, ih, crcBits, BitVec.getLsbD_ushiftRight]

theorem setWidth_ushiftRight (p : Word32) (n : Nat) : (p >>> n).setWidth 8 = p.extractLsb' n 8 := by
  ext i
  simp

/-- Eight bits are one byte of the byte form. -/
theorem crcBits_byte (n : Nat) (p : Word32) (c : Byte) :
    crcBits (n + 8) p c = crcBits n p (crcRounds 8 (c ^^^ p.extractLsb' n 8)) := by
  rw [crcBits_add, crcBits_eq_crcRounds (Nat.le_refl 8), Nat.sub_self, BitVec.shiftLeft_zero,
    setWidth_ushiftRight]

/-- Settles O14: the 32 bits are four bytes. -/
theorem crcByBytesAgrees : Obligations.CrcByBytesAgrees := by
  intro p
  rw [crc8, crcBits_byte 24, crcBits_byte 16, crcBits_byte 8, crcBits_byte 0]
  rfl

/-! ### Zero residue -/

/-- High bytes that are 0 leave the register 0. -/
theorem crcBits_of_zero_register {n : Nat} {p : Word32} (high : p.extractLsb' n 8 = 0#8) :
    crcBits (n + 8) p 0 = crcBits n p 0 := by
  rw [crcBits_byte, high, show (0 : Byte) ^^^ 0#8 = 0 by rfl, crcRounds_zero_register]

/-- Feeding the register its own value leaves 0. -/
theorem crcBits_own_register {p : Word32} {c : Byte} (low : p.extractLsb' 0 8 = c) : crcBits 8 p c = 0 := by
  have whole := crcBits_byte 0 p c
  rw [low, BitVec.xor_self] at whole
  exact whole.trans (crcRounds_zero_register 8)

theorem crc8_word_append_crc (w : Word16) : crc8 ((w ++ crc8 (w.setWidth 32)).setWidth 32) = 0 := by
  let c := crc8 (w.setWidth 32)
  let p : Word32 := (w ++ c).setWidth 32
  have low : p.extractLsb' 0 8 = c :=
    (BitVec.extractLsb'_setWidth_of_le (by decide)).trans BitVec.extractLsb'_append_eq_right
  have above : p >>> 8 = w.setWidth 32 := by
    apply BitVec.eq_of_getLsbD_eq
    intro i bit
    grind
  have high : (w.setWidth 32).extractLsb' 24 8 = 0#8 := by
    ext i bit
    grind
  have word : crcBits 24 (p >>> 8) 0 = c := by
    rw [above, ← crcBits_of_zero_register high]
    rfl
  change crcBits (8 + 24) p 0 = 0
  rw [crcBits_add, word, crcBits_own_register low]

/-- Settles O12: each round is linear; the CRC byte meets itself in the register. -/
theorem crcLinearWithZeroResidue : Obligations.CrcLinearWithZeroResidue :=
  ⟨by simpa using crc8_xor 0 0, crc8_xor, crc8_word_append_crc⟩

/-! ### Flipped bits -/

theorem checkCrc8_eq_false_iff (p : Word32) (c : Byte) : checkCrc8 p c = false ↔ crc8 p ≠ c := beq_eq_false_iff_ne

/-- No single bit of a word has CRC 0. -/
theorem crc8_single_bit_ne_zero : ∀ i < 16, crc8 ((1#16 <<< i).setWidth 32) ≠ 0 := by decide +kernel

theorem single_bit_ne_zero : ∀ j < 8, (1#8 <<< j) ≠ 0 := by decide +kernel

theorem xor_ne_self {n : Nat} {a b : BitVec n} (changed : b ≠ 0) : a ^^^ b ≠ a := by
  intro same
  rw [← BitVec.xor_zero (x := a), BitVec.xor_assoc, BitVec.xor_right_inj, BitVec.zero_xor] at same
  exact changed same

/-- Settles O13: by linearity a flipped bit changes the CRC by the CRC of that bit alone. -/
theorem crcDetectsBitFlips : Obligations.CrcDetectsBitFlips := by
  intro w
  refine ⟨(checkCrc8_eq_true_iff _ _).mpr rfl, fun i bit => ?_, fun j bit => ?_⟩
  · rw [checkCrc8_eq_false_iff, BitVec.setWidth_xor, crc8_xor]
    exact xor_ne_self (crc8_single_bit_ne_zero i bit)
  · rw [checkCrc8_eq_false_iff]
    exact (xor_ne_self (single_bit_ne_zero j bit)).symm

/-! ### The floor of `Compensate` -/

/-- Settles O20: the floor of a quotient by 1000 is between the two multiples, and the clamp is the shared one. -/
theorem compensateFormula : Obligations.CompensateFormula := by
  intro coef rhq tq
  refine ⟨((tq - 163840000) * coef) / 1000, by omega, by omega, ?_, ?_⟩
  · rw [compensate, floorDiv, clamp_percent]
    rfl
  · rintro rfl
    simp

end Sys2Proof.Machine
end

section
/-! PROOFS. What an instruction leaves as it was (10_state R17, R18, R27), and the two grains of step
(00_scope R8). -/

namespace Sys2Proof.Machine

/-! ### The inputs and the trace -/

/-- From `s` to `t` the parameters, `PAYLOAD` and the host's inputs are left, and the trace has only grown. -/
structure InputsLeft (s t : State) : Prop where
  params : t.params = s.params
  payload : t.payload = s.payload
  host : t.host = s.host
  after : t.after = s.after
  readData : t.readData = s.readData
  freeReads : t.freeReads = s.freeReads
  trace : s.trace <+: t.trace

theorem InputsLeft.of_sameOperation {s t u : State} {tr : List Event} (left : InputsLeft s t)
    (same : SameOperation t u) (trace : u.trace = t.trace ++ tr) : InputsLeft s u where
  params := same.params.trans left.params
  payload := same.payload.trans left.payload
  host := same.host.trans left.host
  after := same.after.trans left.after
  readData := same.readData.trans left.readData
  freeReads := same.freeReads.trans left.freeReads
  trace := by rw [trace]; exact left.trace.trans ⟨tr, rfl⟩

theorem InputsLeft.heard {s t : State} (left : InputsLeft s t) (c : Call) (a : Answer) :
    InputsLeft s (heard c a t) where
  params := (heard_params c a t).trans left.params
  payload := (heard_payload c a t).trans left.payload
  host := (heard_host c a t).trans left.host
  after := (heard_after c a t).trans left.after
  readData := (heard_readData c a t).trans left.readData
  freeReads := (heard_freeReads c a t).trans left.freeReads
  trace := by rw [heard_trace]; exact left.trace.trans ⟨_, rfl⟩

theorem kept_inputsLeft (s : State) : Kept (fun _ => True) (InputsLeft s) where
  start m t _ left := left.of_sameOperation (sameOperation_startLine m t) (startLine_trace m t)
  answer m c a t _ _ left := by
    obtain ⟨tr, trace, -⟩ := answerLine_trace m (deliver (callCount c) a) (Machine.heard c _ t)
    exact (left.heard c _).of_sameOperation (sameOperation_answerLine m _ _) trace
  phase _ _ left := { left with }
  replies _ _ left := { left with }
  output _ _ left := { left with }
  finish _ _ left := { left with }

/-- Settles O55: no line and no end of an operation writes an input, and each adds its events at the end of the
trace. -/
theorem instructionsLeaveInputs : Obligations.InstructionsLeaveInputs := by
  intro i s t next
  have start : InputsLeft s s := ⟨rfl, rfl, rfl, rfl, rfl, rfl, List.prefix_rfl⟩
  obtain ⟨params, payload, host, after, readData, freeReads, trace⟩ :=
    (kept_inputsLeft s).exec start { start with } next
  exact ⟨params, payload, host, after, readData, freeReads, trace⟩

/-! ### Both grains of step -/

theorem run_succ {M : Host.Core} {s t : M.State} (n : Nat) (next : M.step s = .next t) :
    M.run (n + 1) s = M.run n t := by
  rw [Host.Core.run, next]

/-- A step of a busy block at a call whose host has nothing to do takes the next reply. -/
theorem step_busy_reply {s : State} {c : Call} (noHost : s.host = []) (busy : s.busy = true)
    (pending : pendingCall s = some c) {r : Reply} {later : List Reply} (replies : s.replies = r :: later) :
    step s = .next (match r with
      | some a => respond a { s with replies := later }
      | none => { s with replies := later }) := by
  have fetched : fetch s = .instr (callWire c).instr s := by
    rw [fetch_busy (.inl noHost) busy, fetchWire_of_pending pending]
  rw [step_of_instr fetched, exec_wire, wireOp, pending]
  simp only [if_true, nextReply, replies]
  cases r <;> rfl

/-- Draining the oracle's entries is taking at most as many steps, one call each. -/
theorem exists_run_eq_drain (rs : List Reply) {s : State} (inv : SeqInv s) (noHost : s.host = [])
    (replies : s.replies = rs) :
    ∃ n, n ≤ rs.length ∧ Host.Core.run Sys2Proof.core n s = .next (drain rs s) := by
  induction rs generalizing s with
  | nil => exact ⟨0, Nat.le_refl 0, rfl⟩
  | cons r later ih =>
    cases busy : s.busy with
    | false => exact ⟨0, Nat.zero_le _, by rw [drain_idle busy]; rfl⟩
    | true =>
      obtain ⟨-, atCall⟩ := inv.2 busy
      obtain ⟨c, pending⟩ := Option.ne_none_iff_exists'.mp atCall
      have next := step_busy_reply noHost busy pending replies
      have taken : SeqInv { s with replies := later } := inv.withInputs s.host later
      cases r with
      | none =>
        refine ⟨1, Nat.le_add_left 1 _, ?_⟩
        rw [run_succ (M := Sys2Proof.core) 0 next, drain_blocked busy]
        rfl
      | some a =>
        obtain ⟨sameHost, sameReplies⟩ := respond_inputs a { s with replies := later }
        obtain ⟨n, bound, run⟩ := ih (taken.respond a) (sameHost.trans noHost) sameReplies
        refine ⟨n + 1, Nat.succ_le_succ bound, ?_⟩
        rw [run_succ (M := Sys2Proof.core) n next, drain_answer busy]
        exact run

/-- What the transport's answers lead to does not depend on what the host does next. -/
theorem drain_withHost (rs : List Reply) (s : State) (l : List HostAct) :
    drain rs (s.withInputs l s.replies) = (drain rs s).withInputs l (drain rs s).replies := by
  induction rs generalizing s with
  | nil => rfl
  | cons r later ih =>
    cases busy : s.busy with
    | false => rw [drain_idle busy, drain_idle (s := s.withInputs l s.replies) busy]
    | true =>
      cases r with
      | none => rw [drain_blocked busy, drain_blocked (s := s.withInputs l s.replies) busy]; rfl
      | some a =>
        have respondHost := respond_withInputs l later a { s with replies := later }
        obtain ⟨-, sameReplies⟩ := respond_inputs a { s with replies := later }
        rw [drain_answer busy, drain_answer (s := s.withInputs l s.replies) busy, ← ih, sameReplies]
        exact congrArg (drain later) respondHost

/-- The lines of an operation leave the inputs. -/
theorem runLines_inputs (ms : List Micro) (s : State) :
    (runLines ms s).host = s.host ∧ (runLines ms s).replies = s.replies := by
  have same := runLines_withInputs s.host s.replies ms s
  rw [withInputs_self] at same
  constructor <;> rw [same] <;> rfl

/-- Settles O59: the operation's start without answers comes to its first call, and from there a step takes one
entry of the oracle as the big step does. -/
theorem bigStepEqualsSmallSteps : Obligations.BigStepEqualsSmallSteps := by
  intro i s t host next
  rw [exec_hostOp host] at next
  obtain ⟨idle, ⟨needs, notBegun, rfl⟩ | ⟨begun, rfl⟩⟩ := hostOp_next next
  · refine ⟨finish .notBegun (accept (encode i) { s with replies := [] }), 0, ?_, Nat.zero_le _, rfl⟩
    rw [exec_hostOp host, needs]
    exact hostOp_notBegun (s := { s with replies := [] }) idle notBegun i _
  · let accepted := accept (encode i) s
    have start : exec i { s with replies := [] } =
        .next ((runLines (linesOf i) accepted).withInputs s.host []) := by
      rw [exec_hostOp host, hostOp_runs (s := { s with replies := [] }) idle begun,
        ← runLines_withInputs]
      rfl
    have inv : SeqInv ((runLines (linesOf i) accepted).withInputs [] s.replies) :=
      ((inProgress_accept _ s).seqInv_runLines _).withInputs _ _
    obtain ⟨n, bound, run⟩ := exists_run_eq_drain s.replies inv rfl rfl
    refine ⟨_, n, start, bound, run.trans ?_⟩
    obtain ⟨-, sameReplies⟩ := runLines_inputs (linesOf i) accepted
    have sameEnd := drain_withHost s.replies (runLines (linesOf i) accepted) []
    rw [sameReplies] at sameEnd
    exact congrArg _ sameEnd

end Sys2Proof.Machine
end

section
/-! PROOFS. The identity, the mode flags and the result codes (10_state R13, R18, R21, 60_exceptions R222): what
each line may write, and BEGIN and RDSN whatever the transport answers. -/

namespace Sys2Proof.Machine

/-! ### The identity and the mode flags, line by line -/

/-- From `s` to `t` the identity is as it was. -/
def SameIdentity (s t : State) : Prop := t.sna = s.sna ∧ t.snb = s.snb ∧ t.snc = s.snc

theorem SameIdentity.trans {s t u : State} (h : SameIdentity s t) (h' : SameIdentity t u) :
    SameIdentity s u := by
  obtain ⟨sna, snb, snc⟩ := h
  obtain ⟨sna', snb', snc'⟩ := h'
  exact ⟨sna'.trans sna, snb'.trans snb, snc'.trans snc⟩

theorem sameIdentity_startLine (m : Micro) (s : State) : SameIdentity s (stateOf (startLine m s)) := by
  cases m <;> simp only [startLine] <;> first | exact ⟨rfl, rfl, rfl⟩ | (split <;> exact ⟨rfl, rfl, rfl⟩)

theorem sameIdentity_heard (c : Call) (a : Answer) (s : State) : SameIdentity s (heard c a s) :=
  ⟨heard_sna c a s, heard_snb c a s, heard_snc c a s⟩

/-- Only the second serial read writes the identity (10_state R13). -/
theorem sameIdentity_answerLine {m : Micro} (other : m ≠ .readSnac) (a : Answer) (s : State) :
    SameIdentity s (stateOf (answerLine m a s)) := by
  by_cases measures : ∃ kind, m = .attempts kind
  · obtain ⟨kind, rfl⟩ := measures
    obtain ⟨_, _, _, tr, left, -, -⟩ := stateOf_measureAnswer kind a s
    rw [answerLine, left]
    exact ⟨rfl, rfl, rfl⟩
  · cases m <;> simp only [answerLine, writeAnswer]
    case attempts kind => exact absurd ⟨kind, rfl⟩ measures
    case readSnac => exact absurd rfl other
    all_goals
      (repeat' split)
      all_goals exact ⟨rfl, rfl, rfl⟩

/-- No answer writes a mode flag. -/
theorem answerLine_modes (m : Micro) (a : Answer) (s : State) :
    (stateOf (answerLine m a s)).begun = s.begun ∧ (stateOf (answerLine m a s)).hold = s.hold ∧
      (stateOf (answerLine m a s)).typ = s.typ := by
  by_cases measures : ∃ kind, m = .attempts kind
  · obtain ⟨kind, rfl⟩ := measures
    obtain ⟨_, _, _, tr, left, -, -⟩ := stateOf_measureAnswer kind a s
    rw [answerLine, left]
    exact ⟨rfl, rfl, rfl⟩
  · cases m <;> simp only [answerLine, writeAnswer]
    case attempts kind => exact absurd ⟨kind, rfl⟩ measures
    all_goals
      (repeat' split)
      all_goals exact ⟨rfl, rfl, rfl⟩

/-- The lines that write `BEGUN`, and only they do (10_state R21). -/
def writesBegun : Micro → Bool
  | .clearBegun => true
  | .setBegun => true
  | _ => false

/-- The lines that write `HOLD` (10_state R18). -/
def writesHold : Micro → Bool
  | .initModes _ => true
  | .putHold _ => true
  | _ => false

/-- The lines that write `TYP` (10_state R18). -/
def writesTyp : Micro → Bool
  | .initModes _ => true
  | .putTyp _ => true
  | _ => false

theorem startLine_begun {m : Micro} (s : State) (other : writesBegun m = false) :
    (stateOf (startLine m s)).begun = s.begun := by
  cases m <;> simp only [startLine]
  case clearBegun => cases other
  case setBegun => cases other
  all_goals first | rfl | (split <;> rfl)

theorem startLine_hold {m : Micro} (s : State) (other : writesHold m = false) :
    (stateOf (startLine m s)).hold = s.hold := by
  cases m <;> simp only [startLine]
  case initModes b => cases other
  case putHold b => cases other
  all_goals first | rfl | (split <;> rfl)

theorem startLine_typ {m : Micro} (s : State) (other : writesTyp m = false) :
    (stateOf (startLine m s)).typ = s.typ := by
  cases m <;> simp only [startLine]
  case initModes b => cases other
  case putTyp b => cases other
  all_goals first | rfl | (split <;> rfl)

/-! ### The operations that leave them -/

theorem kept_sameIdentity (s : State) : Kept (· ≠ .readSnac) (SameIdentity s) where
  start m t _ same := same.trans (sameIdentity_startLine m t)
  answer _ c _ t other _ same :=
    (same.trans (sameIdentity_heard c _ t)).trans (sameIdentity_answerLine other _ _)
  phase _ _ same := same
  replies _ _ same := same
  output _ _ same := same
  finish _ _ same := same

theorem kept_begun (b : Bool) : Kept (writesBegun · = false) (·.begun = b) where
  start _ t other same := (startLine_begun t other).trans same
  answer m c a t _ _ same := by
    obtain ⟨left, -, -⟩ := answerLine_modes m (deliver (callCount c) a) (heard c (deliver (callCount c) a) t)
    exact left.trans ((heard_begun c _ t).trans same)
  phase _ _ same := same
  replies _ _ same := same
  output _ _ same := same
  finish _ _ same := same

theorem kept_hold (b : Bool) : Kept (writesHold · = false) (·.hold = b) where
  start _ t other same := (startLine_hold t other).trans same
  answer m c a t _ _ same := by
    obtain ⟨-, left, -⟩ := answerLine_modes m (deliver (callCount c) a) (heard c (deliver (callCount c) a) t)
    exact left.trans ((heard_hold c _ t).trans same)
  phase _ _ same := same
  replies _ _ same := same
  output _ _ same := same
  finish _ _ same := same

theorem kept_typ (b : Bool) : Kept (writesTyp · = false) (·.typ = b) where
  start _ t other same := (startLine_typ t other).trans same
  answer m c a t _ _ same := by
    obtain ⟨-, -, left⟩ := answerLine_modes m (deliver (callCount c) a) (heard c (deliver (callCount c) a) t)
    exact left.trans ((heard_typ c _ t).trans same)
  phase _ _ same := same
  replies _ _ same := same
  output _ _ same := same
  finish _ _ same := same

section kept
variable {i : Instr} {s t : State}

theorem linesOf_ne_readSnac (notRdsn : i ≠ .rdsn) (notBegin : ∀ hm, i ≠ .begin hm) :
    ∀ m ∈ linesOf i, m ≠ .readSnac := by
  cases i <;> first
    | exact absurd rfl notRdsn
    | exact absurd rfl (notBegin _)
    | simp [linesOf, doReset, doSetHeater, doMeasure]

theorem linesOf_writesBegun (notBegin : ∀ hm, i ≠ .begin hm) :
    ∀ m ∈ linesOf i, writesBegun m = false := by
  cases i <;> first
    | exact absurd rfl (notBegin _)
    | simp [linesOf, doReset, doSetHeater, doReadSerial, doMeasure, writesBegun]

theorem linesOf_writesHold (notBegin : ∀ hm, i ≠ .begin hm) (notSethold : ∀ hm, i ≠ .sethold hm) :
    ∀ m ∈ linesOf i, writesHold m = false := by
  cases i <;> first
    | exact absurd rfl (notBegin _)
    | exact absurd rfl (notSethold _)
    | simp [linesOf, doReset, doSetHeater, doReadSerial, doMeasure, writesHold]

theorem linesOf_writesTyp (notBegin : ∀ hm, i ≠ .begin hm) (notSettyp : ∀ b, i ≠ .settyp b) :
    ∀ m ∈ linesOf i, writesTyp m = false := by
  cases i <;> first
    | exact absurd rfl (notBegin _)
    | exact absurd rfl (notSettyp _)
    | simp [linesOf, doReset, doSetHeater, doReadSerial, doMeasure, writesTyp]

theorem sameIdentity_runLines (ms : List Micro) (s : State) : SameIdentity s (runLines ms s) := by
  induction ms generalizing s with
  | nil => exact ⟨rfl, rfl, rfl⟩
  | cons m rest ih =>
    have same := sameIdentity_startLine m s
    cases started : startLine m s with
    | done t => rw [started] at same; rw [runLines_done started]; exact same.trans (ih t)
    | wait t => rw [started] at same; rw [runLines_wait started]; exact same
    | raised k t => rw [started] at same; rw [runLines_raised started]; exact same

theorem callOf_replies (m : Micro) (s : State) (rs : List Reply) :
    callOf m { s with replies := rs } = callOf m s := by
  cases m <;> rfl

/-- The call the block is at returns, and the oracle has the entries `later` left. -/
theorem respond_taken {m : Micro} {rest : List Micro} {c : Call} (a : Answer) (later : List Reply)
    (busy : s.busy = true) (phase : s.seq.phase = m :: rest) (call : callOf m s = some c) :
    respond a { s with replies := later } =
      afterLine m rest (answerLine m (deliver (callCount c) a)
        (heard c (deliver (callCount c) a) { s with replies := later })) :=
  respond_of_line (s := { s with replies := later }) a busy phase ((callOf_replies m s later).trans call)

/-- A wire command but the second serial read leaves the identity: the lines after its call only start. -/
theorem sameIdentity_wireOp {w : Wire} (other : w ≠ .readSnac) (next : wireOp w s = .next t) :
    SameIdentity s t := by
  obtain ⟨c, pending, wire, ⟨a, later, -, rfl⟩ | ⟨later, -, rfl⟩⟩ := wireOp_next next
  · obtain ⟨busy, m, rest, phase, call⟩ := pendingCall_eq_some.mp pending
    have line : m ≠ .readSnac := by
      rintro rfl
      cases call
      exact other wire.symm
    let answer := deliver (callCount c) a
    let told := heard c answer { s with replies := later }
    rw [respond_taken a later busy phase call]
    have same : SameIdentity s (stateOf (answerLine m answer told)) :=
      SameIdentity.trans (sameIdentity_heard c answer { s with replies := later })
        (sameIdentity_answerLine line answer told)
    cases answered : answerLine m answer told with
    | done u => rw [answered] at same; exact same.trans (sameIdentity_runLines rest u)
    | wait u => rw [answered] at same; exact same
    | raised k u => rw [answered] at same; exact same
  · exact ⟨rfl, rfl, rfl⟩

theorem sameIdentity_exec (next : exec i s = .next t) (notRdsn : i ≠ .rdsn)
    (notBegin : ∀ hm, i ≠ .begin hm) (notSnac : i ≠ .wReadSnac) : SameIdentity s t := by
  rcases exec_cases i s with ⟨w, wire, meaning⟩ | ⟨-, meaning⟩
  · rw [meaning] at next
    refine sameIdentity_wireOp ?_ next
    rintro rfl
    exact notSnac (wireOf_eq_some wire)
  · rw [meaning] at next
    exact (kept_sameIdentity s).hostOp (linesOf_ne_readSnac notRdsn notBegin) ⟨rfl, rfl, rfl⟩ next

end kept
end Sys2Proof.Machine
end

section
/-! PROOFS. What host operations can do whatever the transport answers: the result codes each can end with
(60_exceptions R222), and BEGIN and RDSN along every run (10_state R13, R21). -/

namespace Sys2Proof.Machine

/-! ### The codes a line can raise -/

/-- The error kinds a line of pseudocode can raise (60_exceptions R205 to R209). -/
def lineCodes : Micro → List ErrKind
  | .sendReset => [.reset]
  | .checkReset => [.reset]
  | .reload => [.registerRead]
  | .writeArg => [.registerWrite]
  | .changeResolution _ _ => [.registerWrite]
  | .changeHeater _ => [.registerWrite]
  | .readSnb => [.serialNumber]
  | .readSnac => [.serialNumber]
  | .attempts _ => [.measurement]
  | _ => []

theorem startLine_raised {m : Micro} {s t : State} {k : ErrKind} (raised : startLine m s = .raised k t) :
    k ∈ lineCodes m := by
  cases m <;> simp only [startLine, reduceCtorEq] at raised
  case checkReset => split at raised <;> cases raised; exact List.mem_singleton.mpr rfl
  case reload => split at raised <;> cases raised
  case changeResolution r1 r0 => split at raised <;> cases raised
  case changeHeater en => split at raised <;> cases raised

theorem attemptFailed_raised {s t : State} {k : ErrKind} (raised : attemptFailed s = .raised k t) :
    k = .measurement := by
  rcases attemptFailed_cases s with ⟨-, another⟩ | ⟨-, failed⟩
  · rw [another] at raised; cases raised
  · rw [failed] at raised; cases raised; rfl

theorem measureAnswer_raised {kind : Kind} {a : Answer} {s t : State} {k : ErrKind}
    (raised : measureAnswer kind a s = .raised k t) : k = .measurement := by
  have frame : ∀ bytes, frameReceived kind bytes s = .raised k t → k = .measurement := by
    intro bytes raised
    unfold frameReceived at raised
    dsimp only at raised
    split at raised
    · cases raised
    · exact attemptFailed_raised raised
  unfold measureAnswer at raised
  split at raised
  case h_1 => exact frame _ raised
  case h_2 => exact attemptFailed_raised raised
  case h_3 => exact frame _ raised
  case h_4 => cases raised
  case h_5 => exact attemptFailed_raised raised
  case h_6 => cases raised
  case h_7 => exact attemptFailed_raised raised

theorem answerLine_raised {m : Micro} {a : Answer} {s t : State} {k : ErrKind}
    (raised : answerLine m a s = .raised k t) : k ∈ lineCodes m := by
  cases m <;> simp only [answerLine, writeAnswer, reduceCtorEq] at raised
  case attempts kind => exact List.mem_singleton.mpr (measureAnswer_raised raised)
  all_goals
    (repeat' split at raised)
    all_goals first | cases raised; exact List.mem_singleton.mpr rfl | cases raised

/-! ### The codes an operation can end with -/

/-- The lines of an operation in progress end it with success or a code one of them can raise. -/
theorem ends_codes (ms : List Micro) {s : State} (busy : s.busy = true) :
    Ends (fun t => t.err = .none ∨ ∃ m ∈ ms, t.err ∈ lineCodes m) (runLines ms s) := by
  induction ms generalizing s with
  | nil => exact ends_of_idle rfl (.inl rfl)
  | cons m rest ih =>
    have weaken : ∀ {t : State}, (t.err = .none ∨ ∃ m ∈ rest, t.err ∈ lineCodes m) →
        (t.err = .none ∨ ∃ m' ∈ m :: rest, t.err ∈ lineCodes m') := by
      rintro t (success | ⟨m', mem, raised⟩)
      · exact .inl success
      · exact .inr ⟨m', List.mem_cons_of_mem m mem, raised⟩
    have same := sameOperation_startLine m s
    cases started : startLine m s with
    | done t =>
      rw [started] at same
      exact ends_runLines_done started fun rs idle => weaken (ih (same.busy.trans busy) rs idle)
    | raised k t =>
      rw [runLines_raised started]
      exact ends_of_idle rfl (.inr ⟨m, List.mem_cons_self, startLine_raised started⟩)
    | wait t =>
      rw [started] at same
      rw [runLines_wait_atLine started]
      refine ends_atLine (I := fun u => u.busy = true ∧ ∃ c, callOf m u = some c) (fun _ h => h) ?_ _
        ⟨same.busy.trans busy, startLine_wait started⟩
      rintro u rs c a ⟨stillBusy, -⟩ -
      have same' := sameOperation_answerLine m a (heard c a (atLine m rest rs u))
      have busy' : (stateOf (answerLine m a (heard c a (atLine m rest rs u)))).busy = true :=
        same'.busy.trans ((heard_busy c a _).trans stillBusy)
      cases answered : answerLine m a (heard c a (atLine m rest rs u)) with
      | done v => rw [answered] at busy'; exact fun rs idle => weaken (ih busy' rs idle)
      | wait v =>
        rw [answered] at busy'
        obtain ⟨kind, rfl⟩ := answerLine_wait answered
        exact ⟨busy', callOf_attempts kind v⟩
      | raised k v => exact .inr ⟨m, List.mem_cons_self, answerLine_raised answered⟩

/-- The codes that the lines of an operation can raise are listed for it, and NotBegun is none of them. -/
theorem lineCodes_listed (i : Instr) :
    ∀ m ∈ linesOf i, ∀ k ∈ lineCodes m, k ∈ endCodes i ∧ k ≠ .notBegun := by
  cases i <;> simp [linesOf, doReset, doSetHeater, doReadSerial, doMeasure, lineCodes, endCodes]

theorem success_listed (i : Instr) : .none ∈ endCodes i := by
  cases i <;> exact List.mem_cons_self

theorem notBegun_listed {i : Instr} (needs : needsBegun i = true) : .notBegun ∈ endCodes i := by
  cases i <;> simp only [needsBegun, Bool.false_eq_true] at needs <;> simp [endCodes]

section codes
variable {i : Instr} {s t : State}

/-- A host operation that has ended was refused for `BEGUN` 0, or ran and ended with a code of its own. -/
theorem err_of_exec (host : wireOf i = none) (next : exec i s = .next t) (idle : t.busy = false) :
    t.err ∈ endCodes i ∧ (t.err = .notBegun ↔ needsBegun i = true ∧ s.begun = false) := by
  rw [exec_hostOp host] at next
  obtain ⟨-, ⟨needs, notBegun, rfl⟩ | ⟨begun, rfl⟩⟩ := hostOp_next next
  · exact ⟨notBegun_listed needs, fun _ => ⟨needs, notBegun⟩, fun _ => rfl⟩
  · have ran : ¬ (needsBegun i = true ∧ s.begun = false) := fun ⟨needs, notBegun⟩ =>
      absurd ((begun needs).symm.trans notBegun) (by decide)
    rcases ends_codes (linesOf i) (accept_busy (encode i) s) s.replies idle with success | ⟨m, mem, raised⟩
    · rw [success]
      exact ⟨success_listed i, iff_of_false nofun ran⟩
    · obtain ⟨listed, other⟩ := lineCodes_listed i m mem _ raised
      exact ⟨listed, iff_of_false other ran⟩

end codes

/-! ### Along a run -/

/-- `Q` holds of the state the block is left in from `s`, whatever answers it has had by then. -/
def Always (Q : State → Prop) (s : State) : Prop := ∀ rs, Q (drain rs s)

/-- What an answered line leaves is enough for `Q` from then on, where the line makes one call. -/
def Leads (Q : State → Prop) (rest : List Micro) : Progress → Prop
  | .done s => Always Q (runLines rest s)
  | .wait _ => False
  | .raised k s => Q (raiseError k s)

section always
variable {Q : State → Prop} {m : Micro} {rest : List Micro} {s : State}

theorem always_of_idle (idle : s.busy = false) (h : Q s) : Always Q s := by
  intro rs
  rwa [drain_idle idle]

theorem always_runLines_done {t : State} (done : startLine m s = .done t) (h : Always Q (runLines rest t)) :
    Always Q (runLines (m :: rest) s) := by
  rwa [runLines_done done]

/-- The rule of a line with one transport call: `Q` holds while the block is at it, and every answer leads on. -/
theorem always_call {c : Call} (busy : s.busy = true) (waits : startLine m s = .wait s)
    (call : callOf m s = some c) (stands : ∀ rs, Q (atLine m rest rs s))
    (answered : ∀ a rs, Leads Q rest (answerLine m a (heard c a (atLine m rest rs s)))) :
    Always Q (runLines (m :: rest) s) := by
  rw [runLines_wait_atLine waits]
  intro rs
  cases rs with
  | nil => exact stands _
  | cons r later =>
    cases r with
    | none =>
      rw [drain_blocked (s := atLine m rest s.replies s) busy]
      exact stands later
    | some a =>
      rw [drain_atLine_answer busy call]
      have next := answered (deliver (callCount c) a) later
      generalize answerLine m _ _ = progress at next ⊢
      cases progress with
      | done u => exact next later
      | wait u => exact next.elim
      | raised k u => exact always_of_idle (raiseError_busy k u) next later

end always

/-! ### An operation that has not yet written the identity -/

/-- From `s` to `t` an operation is in progress that has written neither `BEGUN` nor the identity. -/
structure Steady (s t : State) : Prop where
  busy : t.busy = true
  begun : t.begun = s.begun
  params : t.params = s.params
  identity : SameIdentity s t

section steady
variable {Q : State → Prop} {m : Micro} {rest : List Micro} {s t : State}

theorem Steady.stands_at (steady : Steady s t) (m : Micro) (rest : List Micro) (rs : List Reply) :
    Steady s (atLine m rest rs t) :=
  ⟨steady.busy, steady.begun, steady.params, steady.identity⟩

theorem Steady.told (steady : Steady s t) (c : Call) (a : Answer) : Steady s (heard c a t) :=
  ⟨(heard_busy c a t).trans steady.busy, (heard_begun c a t).trans steady.begun,
    (heard_params c a t).trans steady.params, steady.identity.trans (sameIdentity_heard c a t)⟩

theorem Steady.answered (steady : Steady s t) (other : m ≠ .readSnac) (a : Answer) :
    Steady s (stateOf (answerLine m a t)) := by
  have same := sameOperation_answerLine m a t
  obtain ⟨begun, -, -⟩ := answerLine_modes m a t
  exact ⟨same.busy.trans steady.busy, begun.trans steady.begun, same.params.trans steady.params,
    steady.identity.trans (sameIdentity_answerLine other a t)⟩

/-- The rule of a line with one transport call before the identity is written. -/
theorem Steady.always_one_call {c : Call} (steady : Steady s t) (waits : startLine m t = .wait t)
    (call : callOf m t = some c) (oneCall : ∀ kind, m ≠ .attempts kind) (other : m ≠ .readSnac)
    (stands : ∀ u, Steady s u → Q u)
    (raised : ∀ k u, k ∈ lineCodes m → Steady s u → Q (raiseError k u))
    (done : ∀ a rs u, answerLine m a (heard c a (atLine m rest rs t)) = .done u → Steady s u →
      Always Q (runLines rest u)) :
    Always Q (runLines (m :: rest) t) := by
  refine always_call steady.busy waits call (fun rs => stands _ (steady.stands_at m rest rs)) fun a rs => ?_
  have after := ((steady.stands_at m rest rs).told c a).answered other a
  cases answered : answerLine m a (heard c a (atLine m rest rs t)) with
  | done u => rw [answered] at after; exact done a rs u answered after
  | wait u =>
    obtain ⟨kind, isMeasurement⟩ := answerLine_wait answered
    exact oneCall kind isMeasurement
  | raised k u => rw [answered] at after; exact raised k u (answerLine_raised answered) after

/-! ### The serial-number read along a run -/

/-- `SEQ.SNBTMP` is parsed from a part B frame that was received. -/
def PartBTaken (t : State) : Prop :=
  ∃ b, Event.recv 0xFA0F 8 (.ok b) ∈ t.trace ∧ parseSnb b = some t.seq.snbtmp

/-- The identity is parsed from two frames that were received (45_lifecycle R190). -/
def IdentityTaken (t : State) : Prop :=
  ∃ b c, Event.recv 0xFA0F 8 (.ok b) ∈ t.trace ∧ Event.recv 0xFCC9 6 (.ok c) ∈ t.trace ∧
    parseSnb b = some t.snb ∧ parseSnac c = some (t.snc, t.sna)

theorem readSnac_raised {a : Answer} {k : ErrKind} {u : State} (raised : answerLine .readSnac a t = .raised k u) :
    k = .serialNumber ∧ u = t := by
  simp only [answerLine] at raised
  repeat' split at raised
  all_goals first | (cases raised; exact ⟨rfl, rfl⟩) | cases raised

theorem partBTaken_of_done {a : Answer} {u : State}
    (done : answerLine .readSnb a (heard (.recv .readSnb 8) a t) = .done u) : PartBTaken u := by
  cases a with
  | ok bytes =>
    simp only [answerLine] at done
    split at done
    case h_1 v parsed =>
      cases done
      exact ⟨bytes, List.mem_append_right _ List.mem_cons_self, parsed⟩
    case h_2 => cases done
  | notReady e => cases done
  | hardError e => cases done

theorem identityTaken_of_done {a : Answer} {u : State} (partB : PartBTaken t)
    (done : answerLine .readSnac a (heard (.recv .readSnac 6) a t) = .done u) :
    IdentityTaken u := by
  obtain ⟨b, received, parsedB⟩ := partB
  cases a with
  | ok bytes =>
    simp only [answerLine] at done
    split at done
    case h_1 snc sna parsed =>
      cases done
      exact ⟨b, bytes, List.mem_append_left _ received, List.mem_append_right _ List.mem_cons_self, parsedB,
        parsed⟩
    case h_2 => cases done
  | notReady e => cases done
  | hardError e => cases done

/-- The rule of `DoReadSerial`: no frame has changed the identity while the operation is in it or when it fails,
and when it is done both frames have (45_lifecycle R190). -/
theorem Steady.always_doReadSerial (steady : Steady s t) (stands : ∀ u, Steady s u → Q u)
    (failed : ∀ u, Steady s u → Q (raiseError .serialNumber u))
    (done : ∀ u, u.busy = true → u.begun = s.begun → IdentityTaken u → Always Q (runLines rest u)) :
    Always Q (runLines (doReadSerial ++ rest) t) := by
  change Always Q (runLines (.readSnb :: .readSnac :: rest) t)
  refine steady.always_one_call rfl rfl nofun nofun stands (fun k u code after => ?_) fun a rs u answered after => ?_
  · obtain rfl := List.mem_singleton.mp code
    exact failed u after
  · have partB := partBTaken_of_done answered
    refine always_call (c := .recv .readSnac 6) after.busy rfl rfl (fun rs => stands _ (after.stands_at _ _ rs))
      fun a rs => ?_
    let told := heard (.recv .readSnac 6) a (atLine .readSnac rest rs u)
    have toldB : PartBTaken (atLine .readSnac rest rs u) := partB
    have steadyTold : Steady s told := (after.stands_at .readSnac rest rs).told _ a
    have same := sameOperation_answerLine .readSnac a told
    obtain ⟨begun, -, -⟩ := answerLine_modes .readSnac a told
    cases answered : answerLine .readSnac a told with
    | done v =>
      rw [answered] at same begun
      exact done v (same.busy.trans steadyTold.busy) (begun.trans steadyTold.begun)
        (identityTaken_of_done toldB answered)
    | wait v =>
      obtain ⟨kind, isMeasurement⟩ := answerLine_wait answered
      cases isMeasurement
    | raised k v =>
      obtain ⟨rfl, rfl⟩ := readSnac_raised answered
      exact failed _ steadyTold

/-! ### RDSN -/

theorem always_rdsn (s : State) :
    Always (fun t => SameIdentity s t ∨ IdentityTaken t) (runLines (linesOf .rdsn) (accept (encode .rdsn) s)) := by
  have steady : Steady (accept (encode .rdsn) s) (accept (encode .rdsn) s) := ⟨rfl, rfl, rfl, rfl, rfl, rfl⟩
  have lines : linesOf .rdsn = doReadSerial ++ [] := rfl
  rw [lines]
  refine steady.always_doReadSerial (fun u after => .inl after.identity) (fun u after => .inl after.identity)
    fun u busy begun taken => always_of_idle rfl (.inr taken)

/-! ### BEGIN -/

theorem startLine_checkReset_of_ne (other : s.ureg ≠ s.params.uregResetValue) :
    startLine .checkReset s = .raised .reset s := if_neg other

/-- All that a BEGIN leaves: it is in progress, or it has failed with one of its codes, and has changed neither
`BEGUN`, which it cleared, nor the identity; or it has ended with success (45_lifecycle R185, R194). -/
def BeginLeaves (s t : State) : Prop :=
  (t.begun = false ∧ SameIdentity s t ∧ (t.busy = true ∨ t.err ≠ .none) ∧
    (t.busy = false → t.err = .registerWrite → s.params.uregResetValue.getLsbD 2 = true)) ∨
  (t.begun = true ∧ t.busy = false ∧ t.err = .none ∧ IdentityTaken t)

theorem Steady.beginLeaves (steady : Steady { s with begun := false } t) : BeginLeaves s t :=
  .inl ⟨steady.begun, steady.identity, .inl steady.busy,
    fun idle => absurd (steady.busy.symm.trans idle) (by decide)⟩

theorem Steady.beginLeaves_raiseError {k : ErrKind} (steady : Steady { s with begun := false } t)
    (failure : k ≠ .none) (heater : k = .registerWrite → s.params.uregResetValue.getLsbD 2 = true) :
    BeginLeaves s (raiseError k t) :=
  .inl ⟨steady.begun, steady.identity, .inr failure, fun _ => heater⟩

theorem lineCodes_ne_none {k : ErrKind} (code : k ∈ lineCodes m) : k ≠ .none := by
  rintro rfl
  cases m <;> simp [lineCodes] at code

/-- A line of BEGIN that does not write the register is at its call, or fails, as BEGIN may. -/
theorem Steady.always_begin_call {c : Call} (steady : Steady { s with begun := false } t)
    (waits : startLine m t = .wait t) (call : callOf m t = some c) (oneCall : ∀ kind, m ≠ .attempts kind)
    (other : m ≠ .readSnac)
    (heater : .registerWrite ∈ lineCodes m → s.params.uregResetValue.getLsbD 2 = true)
    (done : ∀ a rs u, answerLine m a (heard c a (atLine m rest rs t)) = .done u →
      Steady { s with begun := false } u → Always (BeginLeaves s) (runLines rest u)) :
    Always (BeginLeaves s) (runLines (m :: rest) t) :=
  steady.always_one_call waits call oneCall other (fun _ after => after.beginLeaves)
    (fun _ _ code after => after.beginLeaves_raiseError (lineCodes_ne_none code)
      fun isWrite => heater (isWrite ▸ code)) done

theorem uvalid_of_sendReset_done {a : Answer} {u : State} (done : answerLine .sendReset a t = .done u) :
    u.uvalid = false := by
  cases a <;> cases done
  rfl

theorem uvalid_of_reload_done {a : Answer} {u : State} (done : answerLine .reload a t = .done u) :
    u.uvalid = true := by
  cases a <;> cases done
  rfl

theorem Steady.emit (steady : Steady s t) (e : Event) : Steady s (emit e t) :=
  ⟨steady.busy, steady.begun, steady.params, steady.identity⟩

/-- `DoReset` inside BEGIN: when it is done, the shadow is valid and holds the reset value
(45_lifecycle R187). -/
theorem Steady.always_begin_doReset (steady : Steady { s with begun := false } t)
    (done : ∀ u, Steady { s with begun := false } u → u.uvalid = true → u.ureg = s.params.uregResetValue →
      Always (BeginLeaves s) (runLines rest u)) :
    Always (BeginLeaves s) (runLines (doReset ++ rest) t) := by
  change Always (BeginLeaves s) (runLines (.sendReset :: .settleDelay :: .reload :: .checkReset :: rest) t)
  refine steady.always_begin_call (m := .sendReset) rfl rfl nofun nofun (by simp [lineCodes])
    fun a rs u answered afterReset => ?_
  have emptied := uvalid_of_sendReset_done answered
  refine always_runLines_done (m := .settleDelay) rfl ?_
  refine (afterReset.emit _).always_begin_call (m := .reload) (startLine_reload_of_invalid emptied)
    (callOf_reload_of_invalid emptied) nofun nofun (by simp [lineCodes]) fun a rs v answered afterRead => ?_
  have filled := uvalid_of_reload_done answered
  by_cases isResetValue : v.ureg = v.params.uregResetValue
  · refine always_runLines_done (startLine_checkReset_of_eq isResetValue) (done v afterRead filled ?_)
    exact isResetValue.trans (congrArg Params.uregResetValue afterRead.params)
  · rw [runLines_raised (startLine_checkReset_of_ne isResetValue)]
    exact always_of_idle rfl (afterRead.beginLeaves_raiseError nofun nofun)

/-- `DoSetHeater(0)` inside BEGIN: with the reset value in the shadow it writes only when its heater bit is
set (45_lifecycle R185). -/
theorem Steady.always_begin_clearHeater (steady : Steady { s with begun := false } t) (valid : t.uvalid = true)
    (isResetValue : t.ureg = s.params.uregResetValue)
    (done : ∀ u, Steady { s with begun := false } u → Always (BeginLeaves s) (runLines rest u)) :
    Always (BeginLeaves s) (runLines (doSetHeater false ++ rest) t) := by
  refine always_runLines_done (startLine_reload_of_valid valid) ?_
  by_cases heat : heatOf t.ureg = false
  · exact always_runLines_done (startLine_changeHeater_of_eq heat) (done t steady)
  · have bitSet : s.params.uregResetValue.getLsbD 2 = true := by
      rw [← isResetValue]
      exact Bool.eq_true_of_not_eq_false heat
    exact steady.always_begin_call (startLine_changeHeater_of_ne heat) (callOf_changeHeater_of_ne heat) nofun
      nofun (fun _ => bitSet) fun _ _ u _ after => done u after

theorem always_begin (hm : Bool) (s : State) :
    Always (BeginLeaves s) (runLines (linesOf (.begin hm)) (accept (encode (.begin hm)) s)) := by
  let opened := Machine.emit (.setAddr devAddr) { accept (encode (.begin hm)) s with begun := false }
  let modes : List Micro := .initModes hm :: (doReadSerial ++ [.setBegun])
  have opens : runLines (linesOf (.begin hm)) (accept (encode (.begin hm)) s) =
      runLines (doReset ++ (doSetHeater false ++ modes)) opened := rfl
  have steady : Steady { s with begun := false } opened := ⟨rfl, rfl, rfl, rfl, rfl, rfl⟩
  rw [opens]
  refine steady.always_begin_doReset fun t afterReset valid isResetValue => ?_
  refine afterReset.always_begin_clearHeater valid isResetValue fun u afterHeater => ?_
  refine always_runLines_done (m := .initModes hm) rfl ?_
  have inModes : Steady { s with begun := false } { u with hold := hm, typ := false } :=
    ⟨afterHeater.busy, afterHeater.begun, afterHeater.params, afterHeater.identity⟩
  refine inModes.always_doReadSerial (fun _ after => after.beginLeaves)
    (fun _ after => after.beginLeaves_raiseError nofun nofun) fun v busy begun taken => ?_
  exact always_runLines_done (m := .setBegun) rfl (always_of_idle rfl (.inr ⟨rfl, rfl, rfl, taken⟩))

end steady

theorem beginLeaves_of_exec {hm : Bool} {s t : State} (next : exec (.begin hm) s = .next t) : BeginLeaves s t := by
  rw [exec_hostOp rfl] at next
  obtain ⟨-, ⟨needs, -⟩ | ⟨-, rfl⟩⟩ := hostOp_next next
  · cases needs
  · exact always_begin hm s s.replies

/-- Settles O56: without the second serial read no line writes the identity, and in BEGIN and RDSN that read
writes it from the two frames of the run. -/
theorem identityAllOrNothing : Obligations.IdentityAllOrNothing := by
  refine ⟨fun i s t next notRdsn notBegin notSnac => sameIdentity_exec next notRdsn notBegin notSnac,
    fun i s t host next => ?_⟩
  by_cases isRdsn : i = .rdsn
  · subst isRdsn
    rw [exec_hostOp rfl] at next
    obtain ⟨-, ⟨-, -, rfl⟩ | ⟨-, rfl⟩⟩ := hostOp_next next
    · exact .inl ⟨rfl, rfl, rfl⟩
    · exact always_rdsn s s.replies
  by_cases isBegin : ∃ hm, i = .begin hm
  · obtain ⟨hm, rfl⟩ := isBegin
    rcases beginLeaves_of_exec next with ⟨-, same, -⟩ | ⟨-, -, -, taken⟩
    · exact .inl same
    · exact .inr taken
  · refine .inl (sameIdentity_exec next isRdsn (fun hm same => isBegin ⟨hm, same⟩) ?_)
    rintro rfl
    cases host

/-- Settles O57: an operation ends with success or with a code one of its lines can raise; BEGIN writes the
register only with the reset value in the shadow. -/
theorem endCodesByOperation : Obligations.EndCodesByOperation := by
  intro i s t host next idle
  obtain ⟨listed, notBegun⟩ := err_of_exec host next idle
  refine ⟨listed, notBegun, ?_⟩
  rintro hm rfl writeFailed
  rcases beginLeaves_of_exec next with ⟨-, -, -, heater⟩ | ⟨-, -, success, -⟩
  · exact heater idle writeFailed
  · cases success.symm.trans writeFailed

/-- Settles O58: each mode flag has its lines, which stand in no other operation; BEGIN clears `BEGUN` first and
sets it last. -/
theorem modesWrittenOnlyByTheirOperations : Obligations.ModesWrittenOnlyByTheirOperations := by
  intro i s t host next
  refine ⟨fun notBegin => ?_, ?_⟩
  · rw [exec_hostOp host] at next
    exact ⟨(kept_begun s.begun).hostOp (linesOf_writesBegun notBegin) rfl next,
      fun notSethold => (kept_hold s.hold).hostOp (linesOf_writesHold notBegin notSethold) rfl next,
      fun notSettyp => (kept_typ s.typ).hostOp (linesOf_writesTyp notBegin notSettyp) rfl next⟩
  · rintro hm rfl
    rcases beginLeaves_of_exec next with ⟨cleared, -, unfinished, -⟩ | ⟨begun, idle, success, -⟩
    · refine iff_of_false (by simp [cleared]) fun ⟨idle, success⟩ => ?_
      rcases unfinished with busy | failed
      · exact absurd (busy.symm.trans idle) (by decide)
      · exact failed success
    · exact iff_of_true begun ⟨idle, success⟩

end Sys2Proof.Machine
end

section
/-! PROOFS. The user-register cache and the lookups (41_register_cache R110 to R119, 42_resolution R127 to R132):
an operation that opens with a reload, and the lines that write the register. -/

namespace Sys2Proof.Machine

/-! ### An operation that runs -/

theorem exec_runs {i : Instr} {s : State} (host : wireOf i = none) (idle : s.busy = false)
    (begun : needsBegun i = true → s.begun = true) :
    exec i s = .next (drain s.replies (runLines (linesOf i) (accept (encode i) s))) := by
  rw [exec_hostOp host, hostOp_runs idle begun]

/-- What a failing instruction leaves in `RESULT` (60_exceptions R204, 10_state R23, 43_measurement R158). -/
def failedResult (i : Instr) (result : Word32) : Word32 :=
  match i with
  | .getresT => 0
  | .getresRh => 0
  | .getctT => 0
  | .getctRh => 0
  | .measT => badQ
  | .measRh => badQ
  | .measRhc => badQ
  | _ => result

/-- The ranges of opcodes that the failure output is given by hold the lookups and the measurements. -/
theorem failureOutput_encode (i : Instr) (result : Word32) :
    failureOutput (some (opOf (encode i))) result = failedResult i result := by
  cases i <;> first | rfl | skip
  case begin hm => cases hm <;> rfl
  case wrreg v => simp only [encode, commandWord, opOf_append]; rfl
  case setres r1 r0 => cases r1 <;> cases r0 <;> rfl
  case setheat en => cases en <;> rfl
  case sethold hm => cases hm <;> rfl
  case settyp t => cases t <;> rfl
  case chkcrc c => simp only [encode, commandWord, opOf_append]; rfl

/-- An error raised by the operation `i` ends it with the failure output of `i`. -/
theorem raiseError_of_op {i : Instr} {s : State} (k : ErrKind)
    (op : s.seq.op = some (opOf (encode i))) :
    raiseError k s = finish k { s with result := failedResult i s.result } := by
  rw [raiseError, op, failureOutput_encode]

/-- What a failing call writes (10_state R24). -/
theorem heard_of_failsWith {a : Answer} {e : Byte} (c : Call) (fails : FailsWith a e) (s : State) :
    heard c a s = { s with lastres := e, trace := s.trace ++ [callEvent c a] } := by
  rw [heard_eq, heardFrame_of_failsWith c fails, answerCode_of_failsWith fails]

/-! ### The reload that opens an operation -/

theorem reloaded_of_valid {s : State} (valid : s.uvalid = true) : reloaded s s.ureg = s := by
  simp only [reloaded, reloadEvents, valid, if_true, List.append_nil]
  rw [← valid]

theorem reloaded_of_invalid {s : State} (invalid : s.uvalid = false) (u : Byte) :
    reloaded s u = { s with
      ureg := u, uvalid := true, lastres := 0, trace := s.trace ++ [.recv 0x00E7 1 (.ok [u])]
      seq := { s.seq with frame := [u] } } := by
  simp only [reloaded, reloadEvents, invalid, Bool.false_eq_true, if_false]

/-- The state after the reload, with the answers `rs` to come; `phase` is where the block last stood. -/
def reloadedAt (phase : List Micro) (rs : List Reply) (s : State) (u : Byte) : State :=
  { reloaded s u with replies := rs, seq := { (reloaded s u).seq with phase := phase } }

section reload
variable {s : State} {u : Byte} {rs : List Reply}

/-- `DoReload` uses a valid shadow and else reads the register, and the next line follows
(41_register_cache R111). -/
theorem drain_reload (busy : s.busy = true) (cached : s.uvalid = true → u = s.ureg)
    (answers : s.replies = reloadReplies s u ++ rs) (rest : List Micro) :
    ∃ phase, drain s.replies (runLines (.reload :: rest) s) =
      drain rs (runLines rest (reloadedAt phase rs s u)) := by
  cases valid : s.uvalid with
  | true =>
    obtain rfl := cached valid
    refine ⟨s.seq.phase, ?_⟩
    simp only [reloadReplies, valid, if_true, List.nil_append] at answers
    rw [runLines_done (startLine_reload_of_valid valid), reloadedAt, reloaded_of_valid valid, answers, ← answers]
  | false =>
    refine ⟨.reload :: rest, ?_⟩
    simp only [reloadReplies, valid, Bool.false_eq_true, if_false] at answers
    rw [answers, reloadedAt, reloaded_of_invalid valid]
    exact drain_reload_ok busy rest rs valid u

theorem answerLine_reload_of_failsWith {a : Answer} {e : Byte} (fails : FailsWith a e) (t : State) :
    answerLine .reload a t = .raised .registerRead t := by
  obtain ⟨rfl | rfl, -⟩ := fails <;> rfl

/-- A register read that fails ends the operation, `UREG` and `UVALID` as they were (41_register_cache R111). -/
theorem drain_reload_fails {a : Answer} {e : Byte} (busy : s.busy = true) (invalid : s.uvalid = false)
    (fails : FailsWith a e) (rest : List Micro) :
    drain (some a :: rs) (runLines (.reload :: rest) s) = raiseError .registerRead
      { atLine .reload rest rs s with lastres := e, trace := s.trace ++ [.recv 0x00E7 1 a] } := by
  rw [drain_runLines_of_raised busy (startLine_reload_of_invalid invalid) (callOf_reload_of_invalid invalid)
    (answerLegal_of_failsWith fails 1) (answerLine_reload_of_failsWith fails _), heard_of_failsWith _ fails]
  rfl

end reload

section opening
variable {i : Instr} {lines : List Micro} {s : State} {u : Byte} {rs : List Reply}
  (opens : linesOf i = .reload :: lines) (needs : needsBegun i = true) (idle : s.busy = false)
  (begun : s.begun = true)
include opens needs idle begun

/-- An operation that opens with a reload goes on with its other lines. -/
theorem exec_after_reload (cached : s.uvalid = true → u = s.ureg)
    (answers : s.replies = reloadReplies s u ++ rs) :
    ∃ phase, exec i s =
      .next (drain rs (runLines lines (reloadedAt phase rs (accept (encode i) s) u))) := by
  obtain ⟨phase, reloads⟩ := drain_reload (s := accept (encode i) s) rfl cached answers lines
  refine ⟨phase, ?_⟩
  rw [exec_runs (wireOf_of_needsBegun needs) idle fun _ => begun, opens]
  exact congrArg _ reloads

/-- It ends with RegisterReadError when the register cannot be read. -/
theorem exec_reload_fails {a : Answer} {e : Byte} (invalid : s.uvalid = false) (fails : FailsWith a e)
    (answers : s.replies = some a :: rs) :
    exec i s = .next (ended (encode i) .registerRead { s with
      replies := rs, lastres := e, result := failedResult i s.result
      trace := s.trace ++ [.recv 0x00E7 1 a] }) := by
  have host := wireOf_of_needsBegun needs
  rw [exec_runs host idle fun _ => begun, opens, answers,
    drain_reload_fails (s := accept (encode i) s) rfl invalid fails, raiseError_of_op _ rfl]
  rfl

end opening

/-- Settles O22: RELOAD is its reload and nothing else. -/
theorem reloadResult : Obligations.ReloadResult := by
  intro s idle begun
  refine ⟨fun valid => ?_, fun b rest invalid answers => ?_, fun a e rest invalid fails answers => ?_⟩
  · have start : startLine .reload (accept (encode .reload) s) = .done (accept (encode .reload) s) :=
      startLine_reload_of_valid valid
    rw [exec_runs rfl idle fun _ => begun, show linesOf .reload = [.reload] from rfl, runLines_done start,
      runLines_nil]
    exact congrArg _ (drain_idle rfl _)
  · rw [exec_runs rfl idle fun _ => begun, show linesOf .reload = [.reload] from rfl, answers,
      drain_reload_ok (s := accept (encode .reload) s) rfl [] rest invalid b, runLines_nil]
    exact congrArg _ (drain_idle rfl _)
  · exact exec_reload_fails rfl rfl idle begun invalid fails answers

/-! ### The lines that write the register -/

/-- The line `m` is at the write of `v` to the user register (41_register_cache R113). -/
structure Writes (m : Micro) (v : Byte) (s : State) : Prop where
  waits : startLine m s = .wait s
  call : callOf m s = some (.sendByte .writeUreg v)
  answer : ∀ a t, answerLine m a t = writeAnswer a t

section writes
variable {m : Micro} {v : Byte} {s : State} {rs : List Reply}

theorem writes_writeArg (s : State) : Writes .writeArg s.seq.arg s := ⟨rfl, rfl, fun _ _ => rfl⟩

theorem writes_changeHeater {en : Bool} (other : heatOf s.ureg ≠ en) :
    Writes (.changeHeater en) (withHeater s.ureg en) s :=
  ⟨startLine_changeHeater_of_ne other, callOf_changeHeater_of_ne other, fun _ _ => rfl⟩

/-- The two bits of a resolution code (10_state R16). -/
theorem rescodeOf_eq_iff (u : Byte) (r1 r0 : Bool) :
    rescodeOf u = BitVec.ofBool r1 ++ BitVec.ofBool r0 ↔ u.getLsbD 7 = r1 ∧ u.getLsbD 0 = r0 := by
  rw [rescodeOf]
  generalize u.getLsbD 7 = b1
  generalize u.getLsbD 0 = b0
  revert b1 b0 r1 r0
  decide

theorem startLine_changeResolution_of_eq {r1 r0 : Bool} (same : s.ureg.getLsbD 7 = r1 ∧ s.ureg.getLsbD 0 = r0) :
    startLine (.changeResolution r1 r0) s = .done s := if_pos ((rescodeOf_eq_iff _ _ _).mpr same)

theorem writes_changeResolution {r1 r0 : Bool} (other : ¬ (s.ureg.getLsbD 7 = r1 ∧ s.ureg.getLsbD 0 = r0)) :
    Writes (.changeResolution r1 r0) (withResolution s.ureg r1 r0) s :=
  ⟨if_neg fun same => other ((rescodeOf_eq_iff _ _ _).mp same),
    if_neg fun same => other ((rescodeOf_eq_iff _ _ _).mp same), fun _ _ => rfl⟩

/-- A write that is sent empties the shadow, and the next line follows (41_register_cache R113). -/
theorem Writes.drain_ok (writes : Writes m v s) (busy : s.busy = true) (rest : List Micro) :
    drain (some (.ok []) :: rs) (runLines (m :: rest) s) =
      drain rs (runLines rest { atLine m rest rs s with
        uvalid := false, lastres := 0, trace := s.trace ++ [.sendByte 0x00E6 v (.ok [])] }) := by
  rw [drain_runLines_of_wait busy writes.waits writes.call rfl, writes.answer]
  rfl

theorem writeAnswer_of_failsWith {a : Answer} {e : Byte} (fails : FailsWith a e) (t : State) :
    writeAnswer a t = .raised .registerWrite { t with uvalid := false } := by
  obtain ⟨rfl | rfl, -⟩ := fails <;> rfl

/-- A write that is not sent empties the shadow too, and ends the operation (41_register_cache R113). -/
theorem Writes.drain_fails {a : Answer} {e : Byte} (writes : Writes m v s) (busy : s.busy = true)
    (fails : FailsWith a e) (rest : List Micro) :
    drain (some a :: rs) (runLines (m :: rest) s) = raiseError .registerWrite { atLine m rest rs s with
      uvalid := false, lastres := e, trace := s.trace ++ [.sendByte 0x00E6 v a] } := by
  rw [drain_runLines_of_raised busy writes.waits writes.call (answerLegal_of_failsWith fails 0)
    ((writes.answer _ _).trans (writeAnswer_of_failsWith fails _)), heard_of_failsWith _ fails]
  rfl

end writes

/-- Settles O23: WRREG is its write of the operand byte. -/
theorem wrregResult : Obligations.WrregResult := by
  intro s v idle begun
  let accepted := accept (encode (.wrreg v)) s
  have operand : Writes .writeArg v accepted := by
    have arg : accepted.seq.arg = v := argOf_append 0x11 v
    rw [← arg]
    exact writes_writeArg accepted
  have lines : linesOf (.wrreg v) = [.writeArg] := rfl
  refine ⟨fun rest answers => ?_, fun a e rest fails answers => ?_⟩
  · rw [exec_runs rfl idle fun _ => begun, lines, answers, operand.drain_ok rfl, runLines_nil]
    exact congrArg _ (drain_idle rfl _)
  · rw [exec_runs rfl idle fun _ => begun, lines, answers, operand.drain_fails rfl fails,
      raiseError_of_op (i := .wrreg v) _ rfl]
    rfl

/-! ### SETRES and SETHEAT -/

section change
variable {i : Instr} {m : Micro} {s : State} {u v : Byte} {rs : List Reply}
  (lines : linesOf i = [.reload, m]) (needs : needsBegun i = true) (idle : s.busy = false)
  (begun : s.begun = true) (cached : s.uvalid = true → u = s.ureg)
include lines needs idle begun cached

/-- The register as reloaded needs no change: no write. -/
theorem exec_change_unneeded (same : ∀ t : State, t.ureg = u → startLine m t = .done t)
    (answers : s.replies = reloadReplies s u ++ rs) :
    exec i s = .next (ended (encode i) .none { reloaded s u with replies := rs }) := by
  obtain ⟨phase, reloads⟩ := exec_after_reload lines needs idle begun cached answers
  rw [reloads, runLines_done (same _ rfl), runLines_nil]
  exact congrArg _ (drain_idle rfl _)

/-- The register as reloaded is changed by one write that is sent. -/
theorem exec_change_written (other : ∀ t : State, t.ureg = u → Writes m v t)
    (answers : s.replies = reloadReplies s u ++ some (.ok []) :: rs) :
    exec i s = .next (ended (encode i) .none { reloaded s u with
      replies := rs, uvalid := false, lastres := 0
      trace := s.trace ++ reloadEvents s u ++ [.sendByte 0x00E6 v (.ok [])] }) := by
  obtain ⟨phase, reloads⟩ := exec_after_reload lines needs idle begun cached answers
  rw [reloads, (other _ rfl).drain_ok rfl, runLines_nil]
  exact congrArg _ (drain_idle rfl _)

/-- The one write is not sent. -/
theorem exec_change_unwritten {a : Answer} {e : Byte} (other : ∀ t : State, t.ureg = u → Writes m v t)
    (keeps : ∀ r, failedResult i r = r) (fails : FailsWith a e)
    (answers : s.replies = reloadReplies s u ++ some a :: rs) :
    exec i s = .next (ended (encode i) .registerWrite { reloaded s u with
      replies := rs, uvalid := false, lastres := e
      trace := s.trace ++ reloadEvents s u ++ [.sendByte 0x00E6 v a] }) := by
  obtain ⟨phase, reloads⟩ := exec_after_reload lines needs idle begun cached answers
  rw [reloads, (other _ rfl).drain_fails rfl fails, raiseError_of_op (i := i) _ rfl,
    keeps]
  rfl

end change

theorem encode_setres (r1 r0 : Bool) :
    encode (.setres r1 r0) =
      0x1200#16 ||| ((BitVec.ofBool r1).setWidth 16 <<< 1) ||| (BitVec.ofBool r0).setWidth 16 := by
  cases r1 <;> cases r0 <;> rfl

theorem encode_setheat (en : Bool) : encode (.setheat en) = 0x1300#16 ||| (BitVec.ofBool en).setWidth 16 := by
  cases en <;> rfl

/-- Settles O24: SETRES is its reload and the change of the two resolution bits. -/
theorem setresResult : Obligations.SetresResult := by
  intro s r1 r0 u idle begun cached w v
  have word : w = encode (.setres r1 r0) := (encode_setres r1 r0).symm
  have change : ¬ (u.getLsbD 7 = r1 ∧ u.getLsbD 0 = r0) →
      ∀ t : State, t.ureg = u → Writes (.changeResolution r1 r0) v t := by
    rintro other t rfl
    exact writes_changeResolution other
  rw [word]
  refine ⟨fun rest same answers => exec_change_unneeded rfl rfl idle begun cached ?_ answers,
    fun rest other answers => exec_change_written rfl rfl idle begun cached (change other) answers,
    fun a e rest other fails answers =>
      exec_change_unwritten rfl rfl idle begun cached (change other) (fun _ => rfl) fails answers,
    fun a e rest invalid fails answers => exec_reload_fails rfl rfl idle begun invalid fails answers⟩
  rintro t rfl
  exact startLine_changeResolution_of_eq same

/-- Settles O25: SETHEAT is its reload and the change of the heater bit. -/
theorem setheatResult : Obligations.SetheatResult := by
  intro s en u idle begun cached w v
  have word : w = encode (.setheat en) := (encode_setheat en).symm
  have change : u.getLsbD 2 ≠ en → ∀ t : State, t.ureg = u → Writes (.changeHeater en) v t := by
    rintro other t rfl
    exact writes_changeHeater other
  rw [word]
  refine ⟨fun rest same answers => exec_change_unneeded rfl rfl idle begun cached ?_ answers,
    fun rest other answers => exec_change_written rfl rfl idle begun cached (change other) answers,
    fun a e rest other fails answers =>
      exec_change_unwritten rfl rfl idle begun cached (change other) (fun _ => rfl) fails answers,
    fun a e rest invalid fails answers => exec_reload_fails rfl rfl idle begun invalid fails answers⟩
  rintro t rfl
  exact startLine_changeHeater_of_eq same

/-- Settles O26: the first call writes and empties the shadow, so the second reads the register, finds the code
there and writes nothing. -/
theorem setresWritesOnce : Obligations.SetresWritesOnce := by
  intro s r1 r0 b rest idle begun valid other same answers v
  obtain ⟨-, written, -, -⟩ := setresResult s r1 r0 s.ureg idle begun fun _ => rfl
  have first := written (some (.ok [b]) :: rest) other (by simpa [reloadReplies, valid] using answers)
  have found : ∀ t : State, t.ureg = b → startLine (.changeResolution r1 r0) t = .done t := by
    rintro t rfl
    exact startLine_changeResolution_of_eq same
  refine ⟨_, _, first, exec_change_unneeded (i := .setres r1 r0) rfl rfl rfl begun nofun found rfl, ?_,
    rfl, rfl, rfl, rfl, rfl, rfl, rfl⟩
  simp [ended, reloaded, reloadEvents, valid, v]

/-! ### The lookups -/

/-- Bits 7 and 0 of the register count out the rows of the table (10_state R16, R17). -/
theorem rowOf_rescodeOf (table : ResTable) (u : Byte) :
    rowOf table (rescodeOf u) =
      if u.getLsbD 7 then (if u.getLsbD 0 then table.row3 else table.row2)
      else if u.getLsbD 0 then table.row1 else table.row0 := by
  rw [rescodeOf]
  cases u.getLsbD 7 <;> cases u.getLsbD 0 <;> rfl

section lookup
variable {i : Instr} {m : Micro} {s : State} {u : Byte} {rs : List Reply}

/-- A lookup is its reload and a line that puts the looked-up value (42_resolution R127 to R132). -/
theorem exec_lookup {value : State → Word32} (lines : linesOf i = [.reload, m]) (needs : needsBegun i = true)
    (puts : ∀ t, startLine m t = .done (putResult (value t) t)) (idle : s.busy = false) (begun : s.begun = true)
    (cached : s.uvalid = true → u = s.ureg) (answers : s.replies = reloadReplies s u ++ rs) :
    ∃ phase, exec i s = .next (ended (encode i) .none { reloaded s u with
      replies := rs, result := value (reloadedAt phase rs (accept (encode i) s) u) }) := by
  obtain ⟨phase, reloads⟩ := exec_after_reload lines needs idle begun cached answers
  refine ⟨phase, ?_⟩
  rw [reloads, runLines_done (puts _), runLines_nil]
  exact congrArg _ (drain_idle rfl _)

end lookup

/-- Settles O27: the row in force after the reload is the one of the byte read. -/
theorem getresResult : Obligations.GetresResult := by
  intro s u idle begun cached row
  have inForce : rowOf s.params.resTable (rescodeOf u) = row := rowOf_rescodeOf _ u
  refine ⟨inForce, fun rest answers => ?_, fun a e rest invalid fails answers =>
    ⟨exec_reload_fails rfl rfl idle begun invalid fails answers,
      exec_reload_fails rfl rfl idle begun invalid fails answers⟩⟩
  rw [← inForce]
  obtain ⟨_, bitsT⟩ := exec_lookup (i := .getresT) rfl rfl (fun _ => rfl) idle begun cached answers
  obtain ⟨_, bitsRh⟩ := exec_lookup (i := .getresRh) rfl rfl (fun _ => rfl) idle begun cached answers
  exact ⟨bitsT, bitsRh⟩

/-- Settles O28: the row in force after the reload is the one of the byte read, and `TYP` selects its column. -/
theorem getctResult : Obligations.GetctResult := by
  intro s u idle begun cached row
  have inForce : rowOf s.params.resTable (rescodeOf u) = row := rowOf_rescodeOf _ u
  refine ⟨fun rest answers => ?_, fun a e rest invalid fails answers =>
    ⟨exec_reload_fails rfl rfl idle begun invalid fails answers,
      exec_reload_fails rfl rfl idle begun invalid fails answers⟩⟩
  rw [← inForce]
  obtain ⟨_, timeT⟩ := exec_lookup (i := .getctT) rfl rfl (fun _ => rfl) idle begun cached answers
  obtain ⟨_, timeRh⟩ := exec_lookup (i := .getctRh) rfl rfl (fun _ => rfl) idle begun cached answers
  exact ⟨timeT, timeRh⟩

end Sys2Proof.Machine
end

section
/-! PROOFS. The lifecycle operations when the transport's answers are given: RESET, RDSN, a BEGIN that fails
before its serial-number read and one that succeeds (45_lifecycle R185 to R194). -/

namespace Sys2Proof.Machine

/-! ### The lines of `DoReset` and the second serial read -/

theorem answerLine_sendReset_of_failsWith {a : Answer} {e : Byte} (fails : FailsWith a e) (s : State) :
    answerLine .sendReset a s = .raised .reset { s with uvalid := false } := by
  obtain ⟨rfl | rfl, -⟩ := fails <;> rfl

theorem answerLine_readSnac_parsed {bytes : List Byte} {snc sna : Word16}
    (parsed : parseSnac bytes = some (snc, sna)) (s : State) :
    answerLine .readSnac (.ok bytes) s = .done { s with snb := s.seq.snbtmp, snc := snc, sna := sna } := by
  simp only [answerLine, parsed]

section lines
variable {s : State} {a : Answer} {e : Byte} {rs : List Reply} (busy : s.busy = true) (rest : List Micro)
include busy

/-- A reset command that is not sent empties the shadow and ends the operation (45_lifecycle R187). -/
theorem drain_sendReset_fails (fails : FailsWith a e) :
    drain (some a :: rs) (runLines (.sendReset :: rest) s) = raiseError .reset { atLine .sendReset rest rs s with
      uvalid := false, lastres := e, trace := s.trace ++ [.send 0x00FE a] } := by
  rw [drain_runLines_of_raised (m := .sendReset) busy rfl rfl (answerLegal_of_failsWith fails 0)
    (answerLine_sendReset_of_failsWith fails _), heard_of_failsWith _ fails]
  rfl

/-- The state after the reset command is sent and the settle time has passed. -/
def resetSent (rest : List Micro) (rs : List Reply) (s : State) : State :=
  { atLine .sendReset (.settleDelay :: .reload :: .checkReset :: rest) rs s with
    uvalid := false, lastres := 0
    trace := s.trace ++ [.send 0x00FE (.ok []), .delay s.params.resetSettleMs] }

theorem drain_doReset_sent :
    drain (some (.ok []) :: rs) (runLines (doReset ++ rest) s) =
      drain rs (runLines (.reload :: .checkReset :: rest) (resetSent rest rs s)) := by
  have sent := drain_sendReset_ok busy (.settleDelay :: .reload :: .checkReset :: rest) rs
  rw [runLines_done (m := .settleDelay) rfl] at sent
  rw [resetSent, List.append_cons s.trace]
  exact sent

/-- The register cannot be read back (45_lifecycle R187). -/
theorem drain_doReset_unread (fails : FailsWith a e) :
    ∃ phase, drain (some (.ok []) :: some a :: rs) (runLines (doReset ++ rest) s) =
      raiseError .registerRead { s with
        replies := rs, uvalid := false, lastres := e
        trace := s.trace ++ [.send 0x00FE (.ok []), .delay s.params.resetSettleMs, .recv 0x00E7 1 a]
        seq := { s.seq with phase := phase } } := by
  refine ⟨.reload :: .checkReset :: rest, ?_⟩
  rw [drain_doReset_sent busy, drain_reload_fails (by exact busy) rfl fails]
  simp only [resetSent, atLine, List.append_assoc, List.cons_append, List.nil_append]

/-- The register is read back as `v`, with the compare to follow (45_lifecycle R187). -/
theorem drain_doReset_read (v : Byte) :
    ∃ phase, drain (some (.ok []) :: some (.ok [v]) :: rs) (runLines (doReset ++ rest) s) =
      drain rs (runLines (.checkReset :: rest) { s with
        replies := rs, ureg := v, uvalid := true, lastres := 0
        trace := s.trace ++ [.send 0x00FE (.ok []), .delay s.params.resetSettleMs, .recv 0x00E7 1 (.ok [v])]
        seq := { s.seq with frame := [v], phase := phase } }) := by
  refine ⟨.reload :: .checkReset :: rest, ?_⟩
  rw [drain_doReset_sent busy, drain_reload_ok (by exact busy) _ rs rfl v]
  simp only [resetSent, atLine, List.append_assoc, List.cons_append, List.nil_append]

theorem drain_readSnac_parsed {bytes : List Byte} {snc sna : Word16} (length : bytes.length = 6)
    (parsed : parseSnac bytes = some (snc, sna)) :
    drain (some (.ok bytes) :: rs) (runLines (.readSnac :: rest) s) =
      drain rs (runLines rest { snacHeard rest rs (.ok bytes) s with
        snb := s.seq.snbtmp, snc := snc, sna := sna }) := by
  have legal : answerLegal 6 (.ok bytes) = true := beq_iff_eq.mpr length
  rw [drain_runLines_of_wait (m := .readSnac) busy rfl rfl legal, answerLine_readSnac_parsed parsed]
  rfl

end lines

/-! ### RESET -/

/-- Settles O30: RESET is `DoReset`, and each call that fails ends it there. -/
theorem resetResult : Obligations.ResetResult := by
  intro s idle begun
  let accepted := accept (encode .reset) s
  have runs : ∀ {rs : List Reply}, s.replies = rs → exec .reset s =
      .next (drain rs (runLines (doReset ++ []) accepted)) := by
    rintro rs rfl
    exact exec_runs rfl idle fun _ => begun
  refine ⟨fun a e rest fails answers => ?_, fun a e rest fails answers => ?_, fun v rest answers => ?_⟩
  · rw [runs answers]
    refine congrArg _ ((drain_sendReset_fails (s := accepted) rfl _ fails).trans ?_)
    rw [raiseError_of_op (i := .reset) _ rfl]
    rfl
  · obtain ⟨phase, unread⟩ := drain_doReset_unread (s := accepted) (rs := rest) rfl [] fails
    rw [runs answers, unread, raiseError_of_op (i := .reset) _ rfl]
    rfl
  · obtain ⟨phase, read⟩ := drain_doReset_read (s := accepted) (rs := rest) rfl [] v
    rw [runs answers, read]
    by_cases isResetValue : v = s.params.uregResetValue
    · rw [if_pos isResetValue, runLines_done (startLine_checkReset_of_eq isResetValue), runLines_nil]
      exact congrArg _ (drain_idle rfl _)
    · rw [if_neg isResetValue, runLines_raised (startLine_checkReset_of_ne isResetValue),
        raiseError_of_op (i := .reset) _ rfl]
      exact congrArg _ (drain_idle rfl _)

/-! ### RDSN -/

/-- Settles O31: an answer to either read is usable or ends RDSN there; with two usable ones all three fields
are written. -/
theorem rdsnResult : Obligations.RdsnResult := by
  intro s idle begun
  let accepted := accept (encode .rdsn) s
  have runs : ∀ {rs : List Reply}, s.replies = rs → exec .rdsn s =
      .next (drain rs (runLines [.readSnb, .readSnac] accepted)) := by
    rintro rs rfl
    exact exec_runs rfl idle fun _ => begun
  refine ⟨fun a e rest fails answers => ?_, fun b rest length unparsed answers => ?_,
    fun b v a e rest length parsed fails answers => ?_,
    fun b c v rest length length' parsed unparsed answers => ?_,
    fun b c v snc sna rest length length' parsed parsed' answers => ?_⟩
  · rw [runs answers, drain_readSnb_unusable rfl (unusable_of_failsWith fails), snbHeard,
      heard_of_failsWith _ fails, raiseError_of_op (i := .rdsn) _ rfl]
    rfl
  · rw [runs answers, drain_readSnb_unusable rfl (unusable_of_unparsed length unparsed),
      raiseError_of_op (i := .rdsn) _ rfl]
    rfl
  · rw [runs answers, drain_readSnb_parsed rfl length parsed,
      drain_readSnac_unusable rfl (unusable_of_failsWith fails), snacHeard, heard_of_failsWith _ fails,
      raiseError_of_op (i := .rdsn) _ rfl, List.append_cons s.trace]
    rfl
  · rw [runs answers, drain_readSnb_parsed rfl length parsed,
      drain_readSnac_unusable rfl (unusable_of_unparsed length' unparsed), raiseError_of_op (i := .rdsn) _ rfl,
      List.append_cons s.trace]
    rfl
  · rw [runs answers, drain_readSnb_parsed rfl length parsed, drain_readSnac_parsed rfl _ length' parsed',
      runLines_nil, List.append_cons s.trace]
    exact congrArg _ (drain_idle rfl _)

/-! ### BEGIN -/

/-- Settles O33: with every call answered well BEGIN comes to its serial-number read, takes both frames and sets
`BEGUN`. -/
theorem beginSucceeds : Obligations.BeginSucceeds := by
  intro s hm b c snb snc sna rest v idle length length' parsed parsed' answers
  rw [exec_begin_serialEntered idle answers, drain_readSnb_parsed rfl length parsed,
    drain_readSnac_parsed rfl _ length' parsed', runLines_done (m := .setBegun) rfl, runLines_nil,
    ← encode_begin, List.append_cons]
  exact congrArg _ (drain_idle rfl _)

/-- The lines of BEGIN after its `DoReset`. -/
def afterReset (hm : Bool) : List Micro := doSetHeater false ++ [.initModes hm] ++ doReadSerial ++ [.setBegun]

/-- BEGIN as it comes to its `DoReset` (45_lifecycle R185). -/
def beginOpened (hm : Bool) (s : State) : State :=
  { accept (encode (.begin hm)) s with begun := false, trace := s.trace ++ [.setAddr 0x40] }

theorem exec_begin {hm : Bool} {s : State} {rs : List Reply} (idle : s.busy = false) (answers : s.replies = rs) :
    exec (.begin hm) s = .next (drain rs (runLines (doReset ++ afterReset hm) (beginOpened hm s))) := by
  rw [← answers]
  exact exec_runs rfl idle nofun

/-- Settles O34: each of the first three calls that fails, and a register that differs, ends BEGIN there. -/
theorem beginFailsEarly : Obligations.BeginFailsEarly := by
  intro s hm idle v w opening
  have word : w = encode (.begin hm) := (encode_begin hm).symm
  have events : ∀ tr, s.trace ++ opening ++ tr = s.trace ++ [.setAddr 0x40] ++
      ([.send 0x00FE (.ok []), .delay s.params.resetSettleMs] ++ tr) := by simp [opening]
  rw [word]
  refine ⟨fun a e rest fails answers => ?_, fun a e rest fails answers => ?_,
    fun u rest other answers => ?_, fun a e rest heater fails answers => ?_⟩
  · rw [exec_begin idle answers, List.append_cons]
    refine congrArg _ ((drain_sendReset_fails (s := beginOpened hm s) rfl _ fails).trans ?_)
    rw [raiseError_of_op (i := .begin hm) _ rfl]
    rfl
  · obtain ⟨phase, unread⟩ := drain_doReset_unread (s := beginOpened hm s) (rs := rest) rfl (afterReset hm) fails
    rw [exec_begin idle answers, unread, raiseError_of_op (i := .begin hm) _ rfl, events]
    rfl
  · obtain ⟨phase, read⟩ := drain_doReset_read (s := beginOpened hm s) (rs := rest) rfl (afterReset hm) u
    rw [exec_begin idle answers, read, runLines_raised (startLine_checkReset_of_ne other),
      raiseError_of_op (i := .begin hm) _ rfl, events]
    exact congrArg _ (drain_idle rfl _)
  · obtain ⟨phase, read⟩ := drain_doReset_read (s := beginOpened hm s) (rs := some a :: rest) rfl (afterReset hm) v
    have write : ∀ t : State, t.ureg = v → Writes (.changeHeater false) (v &&& 0xFB) t := by
      rintro t reset
      have differs : heatOf t.ureg ≠ false := by simp [heatOf, reset, heater]
      rw [← withHeater_false, ← reset]
      exact writes_changeHeater differs
    have lines : afterReset hm = .reload :: .changeHeater false :: (.initModes hm :: (doReadSerial ++ [.setBegun])) :=
      rfl
    rw [exec_begin idle answers, read, runLines_done (startLine_checkReset_of_eq rfl), lines,
      runLines_done (startLine_reload_of_valid rfl), (write _ rfl).drain_fails rfl fails,
      raiseError_of_op (i := .begin hm) _ rfl, events]
    simp only [beginOpened, atLine, List.append_assoc]
    rfl

end Sys2Proof.Machine
end

section
/-! PROOFS. The wire commands, one transport call at a time (30_encoding R71, R92, 43_measurement R144). -/

namespace Sys2Proof.Machine

/-! ### A call that returns -/

theorem nextReply_of_replies {s : State} {r : Reply} {rest : List Reply} (replies : s.replies = r :: rest) :
    nextReply s = (r, rest) := by
  simp only [nextReply, replies]

/-- The block is at the line `m` and its call returns `a`: the update after that answer happens. -/
theorem exec_wire_answered {s : State} {m : Micro} {lines : List Micro} {c : Call} {a : Answer}
    {rest : List Reply} (busy : s.busy = true) (phase : s.seq.phase = m :: lines) (call : callOf m s = some c)
    (legal : answerLegal (callCount c) a = true) (reply : nextReply s = (some a, rest)) :
    exec (callWire c).instr s =
      .next (afterLine m lines (answerLine m a (heard c a { s with replies := rest }))) := by
  rw [exec_wire, wireOp, pendingCall_eq_some.mpr ⟨busy, m, lines, phase, call⟩]
  simp only [if_true, reply]
  rw [respond_taken a rest busy phase call, deliver_of_legal legal]

/-! ### The lines with one call -/

/-- Settles O43: the register read at a reload. -/
theorem wireReadUreg : Obligations.WireReadUreg := by
  intro s lines rest busy invalid phase
  have call : callOf .reload s = some (.recv .readUreg 1) := callOf_reload_of_invalid invalid
  refine ⟨fun b replies => exec_wire_answered busy phase call rfl (nextReply_of_replies replies),
    fun a e fails replies => ?_⟩
  refine (exec_wire_answered busy phase call (answerLegal_of_failsWith fails 1)
    (nextReply_of_replies replies)).trans ?_
  rw [answerLine_reload_of_failsWith fails, heard_of_failsWith _ fails]
  rfl

/-- A register write, at whichever line makes it (41_register_cache R113). -/
theorem exec_wWriteUreg {s : State} {m : Micro} {lines : List Micro} {v : Byte} {rest : List Reply}
    (busy : s.busy = true) (phase : s.seq.phase = m :: lines) (writes : Writes m v s) :
    (s.replies = some (.ok []) :: rest →
      exec .wWriteUreg s = .next (runLines lines { s with
        replies := rest, uvalid := false, lastres := 0
        trace := s.trace ++ [.sendByte 0x00E6 v (.ok [])] })) ∧
    (∀ a e, FailsWith a e → s.replies = some a :: rest →
      exec .wWriteUreg s = .next (raiseError .registerWrite { s with
        replies := rest, uvalid := false, lastres := e, trace := s.trace ++ [.sendByte 0x00E6 v a] })) := by
  refine ⟨fun replies => ?_, fun a e fails replies => ?_⟩
  · refine (exec_wire_answered busy phase writes.call rfl (nextReply_of_replies replies)).trans ?_
    rw [writes.answer]
    rfl
  · refine (exec_wire_answered busy phase writes.call (answerLegal_of_failsWith fails 0)
      (nextReply_of_replies replies)).trans ?_
    rw [writes.answer, writeAnswer_of_failsWith fails, heard_of_failsWith _ fails]
    rfl

/-- Settles O44: each of the three lines that write is at the write of the byte it computes. -/
theorem wireWriteUreg : Obligations.WireWriteUreg := by
  rintro s m lines v rest busy phase (⟨rfl, rfl⟩ | ⟨r1, r0, rfl, other, rfl⟩ | ⟨en, rfl, other, rfl⟩)
  · exact exec_wWriteUreg busy phase (writes_writeArg s)
  · exact exec_wWriteUreg busy phase (writes_changeResolution other)
  · exact exec_wWriteUreg busy phase (writes_changeHeater other)

/-- Settles O45: the reset command. -/
theorem wireSoftReset : Obligations.WireSoftReset := by
  intro s lines rest busy phase
  refine ⟨fun replies => exec_wire_answered (c := .send .softReset) busy phase rfl rfl
    (nextReply_of_replies replies), fun a e fails replies => ?_⟩
  refine (exec_wire_answered (c := .send .softReset) busy phase rfl (answerLegal_of_failsWith fails 0)
    (nextReply_of_replies replies)).trans ?_
  rw [answerLine_sendReset_of_failsWith fails, heard_of_failsWith _ fails]
  rfl

/-- Settles O46: the two serial reads, each with a frame that parses, one that does not, and no frame. -/
theorem wireReadSerial : Obligations.WireReadSerial := by
  intro s lines rest busy
  have atSnb : ∀ a, s.seq.phase = .readSnb :: lines → answerLegal 8 a = true → s.replies = some a :: rest →
      exec .wReadSnb s = .next (afterLine .readSnb lines (answerLine .readSnb a
        (heard (.recv .readSnb 8) a { s with replies := rest }))) := fun a phase legal replies =>
    exec_wire_answered (c := .recv .readSnb 8) busy phase rfl legal (nextReply_of_replies replies)
  have atSnac : ∀ a, s.seq.phase = .readSnac :: lines → answerLegal 6 a = true → s.replies = some a :: rest →
      exec .wReadSnac s = .next (afterLine .readSnac lines (answerLine .readSnac a
        (heard (.recv .readSnac 6) a { s with replies := rest }))) := fun a phase legal replies =>
    exec_wire_answered (c := .recv .readSnac 6) busy phase rfl legal (nextReply_of_replies replies)
  refine ⟨fun phase => ⟨fun b v length parsed replies => ?_, fun b length unparsed replies => ?_,
    fun a e fails replies => ?_⟩, fun phase => ⟨fun b snc sna length parsed replies => ?_,
    fun b length unparsed replies => ?_, fun a e fails replies => ?_⟩⟩
  · rw [atSnb (.ok b) phase (beq_iff_eq.mpr length) replies, answerLine_readSnb_parsed parsed]
    rfl
  · rw [atSnb (.ok b) phase (beq_iff_eq.mpr length) replies,
      answerLine_readSnb_unusable (unusable_of_unparsed length unparsed)]
    rfl
  · rw [atSnb a phase (answerLegal_of_failsWith fails 8) replies,
      answerLine_readSnb_unusable (unusable_of_failsWith fails), heard_of_failsWith _ fails]
    rfl
  · rw [atSnac (.ok b) phase (beq_iff_eq.mpr length) replies, answerLine_readSnac_parsed parsed]
    rfl
  · rw [atSnac (.ok b) phase (beq_iff_eq.mpr length) replies,
      answerLine_readSnac_unusable (unusable_of_unparsed length unparsed)]
    rfl
  · rw [atSnac a phase (answerLegal_of_failsWith fails 6) replies,
      answerLine_readSnac_unusable (unusable_of_failsWith fails), heard_of_failsWith _ fails]
    rfl

/-- Settles O50: a call without an answer only uses up the oracle's entry; a wire command is tested against the
call the block is at. -/
theorem wireWaitsOrRefused : Obligations.WireWaitsOrRefused := by
  intro s w
  refine ⟨fun c pending wire => ⟨fun rest replies => ?_, fun replies after => ?_⟩, fun outOfTurn => ?_⟩
  · rw [exec_wire, wireOp, pending]
    simp only [wire, if_true, nextReply_of_replies replies]
  · have reply : nextReply s = (none, []) := by simp only [nextReply, replies, after]
    rw [exec_wire, wireOp, pending]
    simp only [wire, if_true, reply]
    rw [← replies]
  · rw [exec_wire, wireOp]
    cases pending : pendingCall s with
    | none => rfl
    | some c => exact if_neg (outOfTurn c pending)

/-! ### The calls of a measurement -/

theorem instr_cmdMeasure (kind : Kind) (hold : Bool) : (cmdMeasure kind hold).instr = measureInstr kind hold := by
  cases kind <;> cases hold <;> rfl

section measurement
variable {kind : Kind} {s : State}

/-- At the start of an attempt the block is at the send of its command (43_measurement R144 rows 1 and 2). -/
theorem callOf_attempts_send (starts : s.seq.mst = .idle ∨ s.seq.mst = .retry) :
    callOf (.attempts kind) s = some (.send (cmdMeasure kind s.hold)) := by
  rcases starts with mst | mst <;> simp only [callOf, mst]

/-- While it waits for the frame the block is at a receive of three bytes (43_measurement R148, R149). -/
theorem callOf_attempts_recv (waits : s.seq.mst = .holdWait ∨ s.seq.mst = .pollWait) :
    callOf (.attempts kind) s = some (.recv (cmdMeasure kind s.hold) 3) := by
  rcases waits with mst | mst <;> simp only [callOf, mst]

theorem measureAnswer_send_ok (starts : s.seq.mst = .idle ∨ s.seq.mst = .retry) (bytes : List Byte) :
    measureAnswer kind (.ok bytes) s = .wait { s with
      seq := { s.seq with mst := if s.hold then .holdWait else .pollWait } } := by
  have sent : commandSent s = { s with
      seq := { s.seq with mst := if s.hold then .holdWait else .pollWait } } := by
    unfold commandSent
    cases hold : s.hold <;> simp only [setMst, hold, if_true, Bool.false_eq_true, if_false]
  rw [← sent]
  rcases starts with mst | mst <;> simp only [measureAnswer, mst]

theorem measureAnswer_send_fails {a : Answer} {e : Byte} (starts : s.seq.mst = .idle ∨ s.seq.mst = .retry)
    (fails : FailsWith a e) : measureAnswer kind a s = attemptFailed s := by
  obtain ⟨rfl | rfl, -⟩ := fails <;> rcases starts with mst | mst <;> simp only [measureAnswer, mst]

theorem measureAnswer_frame (waits : s.seq.mst = .holdWait ∨ s.seq.mst = .pollWait) (bytes : List Byte) :
    measureAnswer kind (.ok bytes) s = frameReceived kind bytes s := by
  rcases waits with mst | mst <;> simp only [measureAnswer, mst]

theorem measureAnswer_poll (waits : s.seq.mst = .pollWait) (e : Byte) :
    measureAnswer kind (.notReady e) s = .wait (delay s.seq.ct.toNat s) := by
  simp only [measureAnswer, waits]

/-- No frame and no other poll: the hold path takes no `notReady` for an answer to wait for, and neither path a
hard error (43_measurement R144 rows 6 and 9). -/
theorem measureAnswer_noFrame {a : Answer} {e : Byte} (fails : FailsWith a e)
    (ends : s.seq.mst = .holdWait ∨ s.seq.mst = .pollWait ∧ a = .hardError e) :
    measureAnswer kind a s = attemptFailed s := by
  rcases ends with mst | ⟨mst, rfl⟩
  · obtain ⟨rfl | rfl, -⟩ := fails <;> simp only [measureAnswer, mst]
  · simp only [measureAnswer, mst]

theorem frameReceived_valid {bytes : List Byte} (valid : validMeas kind bytes = true) :
    frameReceived kind bytes s = .done { s with
      seq := { s.seq with mst := .idle, word := measWord bytes } } := if_pos valid

theorem frameReceived_invalid {bytes : List Byte} (invalid : validMeas kind bytes = false) :
    frameReceived kind bytes s = attemptFailed { s with
      seq := { s.seq with mst := .frameReceived, word := measWord bytes } } := if_neg (by simp [invalid])

theorem attemptFailed_another (left : s.seq.att < 3) :
    attemptFailed s = .wait { s with seq := { s.seq with mst := .retry, att := s.seq.att + 1 } } := if_pos left

theorem attemptFailed_last (noneLeft : 3 ≤ s.seq.att) :
    attemptFailed s = .raised .measurement { s with seq := { s.seq with mst := .idle } } :=
  if_neg (Nat.not_lt.mpr noneLeft)

/-- A measurement command at the call `c` of its measurement. -/
theorem exec_measureInstr {lines : List Micro} {c : Call} {a : Answer} {rest : List Reply} (busy : s.busy = true)
    (phase : s.seq.phase = .attempts kind :: lines) (call : callOf (.attempts kind) s = some c)
    (command : callWire c = cmdMeasure kind s.hold) (legal : answerLegal (callCount c) a = true)
    (reply : nextReply s = (some a, rest)) :
    exec (measureInstr kind s.hold) s =
      .next (afterLine (.attempts kind) lines (measureAnswer kind a (heard c a { s with replies := rest }))) := by
  rw [← instr_cmdMeasure, ← command]
  exact exec_wire_answered busy phase call legal reply

/-- What an answered send of a measurement writes. -/
theorem heard_send_cmdMeasure (hold : Bool) (a : Answer) :
    heard (.send (cmdMeasure kind hold)) a s = { s with
      lastres := answerCode a, trace := s.trace ++ [.send (measureCode kind hold) a] } := by
  rw [heard_eq, callEvent, code_cmdMeasure]
  rfl

/-- What an answered receive of a measurement writes. -/
theorem heard_recv_cmdMeasure (hold : Bool) (a : Answer) :
    heard (.recv (cmdMeasure kind hold) 3) a s = { s with
      lastres := answerCode a, trace := s.trace ++ [.recv (measureCode kind hold) 3 a]
      seq := { s.seq with frame := heardFrame (.recv (cmdMeasure kind hold) 3) a s.seq.frame } } := by
  rw [heard_eq, callEvent, code_cmdMeasure]

/-- A receive that fails leaves the frame buffer. -/
theorem heard_recv_cmdMeasure_fails {a : Answer} {e : Byte} (hold : Bool) (fails : FailsWith a e) :
    heard (.recv (cmdMeasure kind hold) 3) a s = { s with
      lastres := e, trace := s.trace ++ [.recv (measureCode kind hold) 3 a] } := by
  rw [heard_recv_cmdMeasure, heardFrame_of_failsWith _ fails, answerCode_of_failsWith fails]

section failed
variable {lines : List Micro}

/-- A failed attempt, another to follow (43_measurement R150). -/
theorem afterLine_attemptFailed_another (left : s.seq.att < 3) :
    afterLine (.attempts kind) lines (attemptFailed s) = { s with
      seq := { s.seq with mst := .retry, att := s.seq.att + 1, phase := .attempts kind :: lines } } := by
  rw [attemptFailed_another left]
  rfl

/-- The third failed attempt (43_measurement R150). -/
theorem afterLine_attemptFailed_last (noneLeft : 3 ≤ s.seq.att) :
    afterLine (.attempts kind) lines (attemptFailed s) = raiseError .measurement s := by
  rw [attemptFailed_last noneLeft]
  rfl

end failed

end measurement

/-- Settles O47: a send that is answered starts the wait for the frame, another fails the attempt. -/
theorem wireMeasureSend : Obligations.WireMeasureSend := by
  intro s kind lines rest busy phase starts
  have call := callOf_attempts_send (kind := kind) starts
  refine ⟨fun replies => ?_, ?_⟩
  · rw [exec_measureInstr busy phase call rfl rfl (nextReply_of_replies replies), heard_send_cmdMeasure,
      measureAnswer_send_ok (by exact starts), afterLine, ← phase]
    rfl
  · intro a e fails replies sent
    rw [exec_measureInstr busy phase call rfl (answerLegal_of_failsWith fails 0) (nextReply_of_replies replies),
      heard_send_cmdMeasure, measureAnswer_send_fails (by exact starts) fails, answerCode_of_failsWith fails]
    refine ⟨fun left => ?_, fun noneLeft => ?_⟩
    · rw [afterLine_attemptFailed_another (by exact left), ← phase]
    · rw [afterLine_attemptFailed_last (by exact noneLeft)]

/-- Settles O48: a frame that is received is valid, or fails the attempt. -/
theorem wireMeasureFrame : Obligations.WireMeasureFrame := by
  intro s kind lines bytes rest busy phase waits length replies got
  have call := callOf_attempts_recv (kind := kind) waits
  have received : exec (measureInstr kind s.hold) s = .next (afterLine (.attempts kind) lines
      (frameReceived kind bytes { got with seq := { s.seq with frame := bytes } })) := by
    have legal : answerLegal 3 (.ok bytes) = true := beq_iff_eq.mpr length
    rw [exec_measureInstr busy phase call rfl legal (nextReply_of_replies replies), heard_recv_cmdMeasure,
      measureAnswer_frame (by exact waits)]
    rfl
  rw [received]
  refine ⟨fun valid => ?_, fun invalid left => ?_, fun invalid noneLeft => ?_⟩
  · rw [frameReceived_valid valid]
    rfl
  · rw [frameReceived_invalid invalid, afterLine_attemptFailed_another (by exact left), ← phase]
  · rw [frameReceived_invalid invalid, afterLine_attemptFailed_last (by exact noneLeft)]
    rfl

/-- Settles O49: without a frame the block polls again or the attempt has failed. -/
theorem wireMeasureNoFrame : Obligations.WireMeasureNoFrame := by
  intro s kind lines a e rest busy phase fails replies got
  have missed : s.seq.mst = .holdWait ∨ s.seq.mst = .pollWait → exec (measureInstr kind s.hold) s =
      .next (afterLine (.attempts kind) lines (measureAnswer kind a got)) := fun waits => by
    rw [exec_measureInstr busy phase (callOf_attempts_recv waits) rfl (answerLegal_of_failsWith fails 3)
      (nextReply_of_replies replies), heard_recv_cmdMeasure_fails _ fails]
  refine ⟨?_, fun ends => ?_⟩
  · rintro waits rfl
    rw [missed (.inr waits), measureAnswer_poll (by exact waits), afterLine, delay, emit, ← phase,
      List.append_cons s.trace]
  · have waits : s.seq.mst = .holdWait ∨ s.seq.mst = .pollWait := ends.imp_right And.left
    rw [missed waits, measureAnswer_noFrame fails (by exact ends)]
    refine ⟨fun left => ?_, fun noneLeft => ?_⟩
    · rw [afterLine_attemptFailed_another (by exact left), ← phase]
    · rw [afterLine_attemptFailed_last (by exact noneLeft)]

/-! ### Polling for ever -/

/-- The state after one more poll that finds nothing: the call and the delay of the bound (43_measurement R149). -/
def polledOnce (kind : Kind) (e : Byte) (s : State) : State :=
  { s with
    lastres := e
    trace := s.trace ++ [.recv (measureCode kind s.hold) 3 (.notReady e), .delay s.seq.ct.toNat] }

/-- One poll that finds nothing: the block has slept the bound and is in the same attempt. -/
theorem step_poll {s : State} {kind : Kind} {lines : List Micro} {e : Byte} (noHost : s.host = [])
    (busy : s.busy = true) (phase : s.seq.phase = .attempts kind :: lines) (waits : s.seq.mst = .pollWait)
    (noReplies : s.replies = []) (after : s.after = some (.notReady e)) (failure : e ≠ 0) :
    step s = .next (polledOnce kind e s) := by
  have call := callOf_attempts_recv (kind := kind) (.inr waits)
  have fails : FailsWith (.notReady e) e := ⟨.inl rfl, failure⟩
  have reply : nextReply s = (some (.notReady e), []) := by simp only [nextReply, noReplies, after]
  have events := List.append_cons s.trace (.recv (measureCode kind s.hold) 3 (.notReady e)) [.delay s.seq.ct.toNat]
  have pending := pendingCall_eq_some.mpr ⟨busy, _, lines, phase, call⟩
  have fetched : fetch s = .instr (cmdMeasure kind s.hold).instr s := by
    rw [fetch_busy (.inl noHost) busy, fetchWire_of_pending pending]
    rfl
  rw [step_of_instr fetched, instr_cmdMeasure,
    exec_measureInstr busy phase call rfl (answerLegal_of_failsWith fails 3) reply,
    heard_recv_cmdMeasure_fails _ fails, measureAnswer_poll (by exact waits), afterLine, delay, emit, ← phase,
    polledOnce, events, ← noReplies]

/-- Settles O42: each step polls once, and leaves all that decides the next. -/
theorem pollsForever : Obligations.PollsForever := by
  intro s kind lines e n noHost busy phase waits noReplies after failure
  induction n generalizing s with
  | zero => simp [Host.Core.run]
  | succ n ih =>
    have polled := run_succ (M := Sys2Proof.core) n (step_poll noHost busy phase waits noReplies after failure)
    refine polled.trans ((ih (polledOnce kind e s) noHost busy phase waits noReplies after).trans ?_)
    simp [polledOnce, List.replicate_succ]

end Sys2Proof.Machine
end

section
/-! PROOFS. The measurements when the transport's answers are given: the entry, one attempt, the attempts of a
measurement, and the three operations (43_measurement R146 to R158). -/

namespace Sys2Proof.Machine

/-! ### What attempts leave -/

/-- The state after the attempts `tried` of a measurement, from one in which it stands at the first of them
(43_measurement R150, R151). -/
def attempted (kind : Kind) (tried : List Attempt) (att : Nat) (mst : MeasState) (rs : List Reply) (s : State) :
    State :=
  { s with
    replies := rs
    lastres := (tried.getLast?.map attemptCode).getD s.lastres
    trace := s.trace ++ tried.flatMap (attemptEvents (measureCode kind s.hold) s.seq.ct.toNat)
    seq := { s.seq with
      att := att, mst := mst, frame := lastFrame s.seq.frame tried, word := lastWord s.seq.word tried } }

theorem lastFrame_cons (frame : List Byte) (a : Attempt) (later : List Attempt) :
    lastFrame frame (a :: later) = lastFrame (lastFrame frame [a]) later := by
  cases a with
  | sendFails a => rfl
  | received polls last => cases last <;> rfl

theorem lastWord_cons (word : Word16) (a : Attempt) (later : List Attempt) :
    lastWord word (a :: later) = lastWord (lastWord word [a]) later := by
  cases a with
  | sendFails a => rfl
  | received polls last => cases last <;> rfl

theorem lastFrame_append (frame : List Byte) (earlier later : List Attempt) :
    lastFrame frame (earlier ++ later) = lastFrame (lastFrame frame earlier) later := by
  induction earlier generalizing frame with
  | nil => rfl
  | cons a earlier ih => rw [List.cons_append, lastFrame_cons, ih, ← lastFrame_cons]

theorem lastWord_append (word : Word16) (earlier later : List Attempt) :
    lastWord word (earlier ++ later) = lastWord (lastWord word earlier) later := by
  induction earlier generalizing word with
  | nil => rfl
  | cons a earlier ih => rw [List.cons_append, lastWord_cons, ih, ← lastWord_cons]

theorem lastCode_of_append (earlier later : List Attempt) (code : Byte) :
    ((earlier ++ later).getLast?.map attemptCode).getD code =
      (later.getLast?.map attemptCode).getD ((earlier.getLast?.map attemptCode).getD code) := by
  rw [List.getLast?_append]
  cases later.getLast? <;> rfl

/-- Attempts after attempts are attempts. -/
theorem attempted_attempted (kind : Kind) (earlier later : List Attempt) (n att : Nat) (mst mst' : MeasState)
    (rs rs' : List Reply) (s : State) :
    attempted kind later att mst rs (attempted kind earlier n mst' rs' s) =
      attempted kind (earlier ++ later) att mst rs s := by
  simp only [attempted, lastFrame_append, lastWord_append, lastCode_of_append, List.flatMap_append,
    List.append_assoc]

/-! ### One attempt -/

/-- The block stands at the start of an attempt of a measurement of `kind`, with the lines `rest` to follow. -/
structure AtAttempt (kind : Kind) (rest : List Micro) (s : State) : Prop where
  busy : s.busy = true
  phase : s.seq.phase = .attempts kind :: rest
  starts : s.seq.mst = .idle ∨ s.seq.mst = .retry

/-- The next answer goes to the call of the measurement. -/
theorem drain_attempts_call {kind : Kind} {rest : List Micro} {s : State} {c : Call} {a : Answer}
    {rs : List Reply} (busy : s.busy = true) (phase : s.seq.phase = .attempts kind :: rest)
    (call : callOf (.attempts kind) s = some c) (legal : answerLegal (callCount c) a = true) :
    drain (some a :: rs) s =
      drain rs (afterLine (.attempts kind) rest (measureAnswer kind a (heard c a { s with replies := rs }))) := by
  rw [drain_answer busy, respond_taken a rs busy phase call, deliver_of_legal legal]
  rfl

theorem failsWith_of_legal {a : Answer} {n : Nat} (legal : answerLegal n a = true)
    (notOk : ∀ bytes, a ≠ .ok bytes) :
    FailsWith a (answerCode a) := by
  cases a with
  | ok bytes => exact absurd rfl (notOk bytes)
  | notReady e => exact ⟨.inl rfl, bne_iff_ne.mp legal⟩
  | hardError e => exact ⟨.inr rfl, bne_iff_ne.mp legal⟩

/-- What the answers of an attempt that is sent keep to (43_measurement R148, R149). -/
theorem attemptLegal_received {hold : Bool} {polls : List Byte} {last : Answer}
    (legal : attemptLegal hold (.received polls last) = true) :
    (∀ e ∈ polls, e ≠ 0) ∧ (hold = true → polls = []) ∧ answerLegal 3 last = true ∧
      (∀ e, last = .notReady e → hold = true) := by
  simp only [attemptLegal, Bool.and_eq_true, List.all_eq_true, bne_iff_ne, Bool.or_eq_true, Bool.not_eq_true',
    List.isEmpty_iff] at legal
  obtain ⟨⟨⟨codes, path⟩, answer⟩, ending⟩ := legal
  refine ⟨codes, fun held => path.resolve_left (by simp [held]), answer, ?_⟩
  rintro e rfl
  exact ending

/-- The trace of the polls of one attempt (43_measurement R149). -/
def pollEvents (code : Word16) (ct : Nat) (polls : List Byte) : List Event :=
  polls.flatMap fun e => [.recv code 3 (.notReady e), .delay ct]

/-- The polls that find nothing leave the block in the poll loop (43_measurement R149). -/
theorem drain_polls {kind : Kind} {rest : List Micro} {polls : List Byte} {rs : List Reply} {s : State}
    (busy : s.busy = true) (phase : s.seq.phase = .attempts kind :: rest)
    (path : polls ≠ [] → s.seq.mst = .pollWait) (codes : ∀ e ∈ polls, e ≠ 0)
    (replies : s.replies = (polls.map fun e => some (.notReady e)) ++ rs) :
    ∃ code, drain s.replies s = drain rs { s with
      replies := rs, lastres := code
      trace := s.trace ++ pollEvents (measureCode kind s.hold) s.seq.ct.toNat polls } := by
  induction polls generalizing s with
  | nil =>
    refine ⟨s.lastres, ?_⟩
    have allLeft : s.replies = rs := replies
    rw [pollEvents, List.flatMap_nil, List.append_nil, ← allLeft]
  | cons e polls ih =>
    have waits : s.seq.mst = .pollWait := path nofun
    have fails : FailsWith (.notReady e) e := ⟨.inl rfl, codes e List.mem_cons_self⟩
    let more : List Reply := (polls.map fun e => some (.notReady e)) ++ rs
    let next := polledOnce kind e { s with replies := more }
    have polled : drain (some (.notReady e) :: more) s = drain next.replies next := by
      have events := List.append_cons s.trace (.recv (measureCode kind s.hold) 3 (.notReady e))
        [.delay s.seq.ct.toNat]
      rw [drain_attempts_call busy phase (callOf_attempts_recv (.inr waits)) (answerLegal_of_failsWith fails 3),
        heard_recv_cmdMeasure_fails _ fails, measureAnswer_poll (by exact waits), afterLine, delay, emit, ← phase]
      simp only [next, polledOnce, events]
    obtain ⟨code, later⟩ := ih (s := next) busy phase (fun _ => waits)
      (fun e mem => codes e (List.mem_cons_of_mem _ mem)) rfl
    refine ⟨code, ?_⟩
    rw [replies, List.map_cons, List.cons_append, polled, later]
    simp only [next, polledOnce, pollEvents, List.flatMap_cons, List.append_assoc]

section attempt
variable {kind : Kind} {rest : List Micro} {rs : List Reply} {s : State}

/-- An attempt whose command is not sent has failed (43_measurement R146 a). -/
theorem drain_attempt_unsent {a : Answer} (standing : AtAttempt kind rest s)
    (legal : attemptLegal s.hold (.sendFails a) = true) :
    drain (attemptReplies (.sendFails a) ++ rs) s = drain rs (afterLine (.attempts kind) rest
      (attemptFailed (attempted kind [.sendFails a] s.seq.att s.seq.mst rs s))) := by
  obtain ⟨busy, phase, starts⟩ := standing
  have fails : FailsWith a (answerCode a) := by
    cases a with
    | ok bytes => cases legal
    | notReady e => exact failsWith_of_legal (n := 0) legal nofun
    | hardError e => exact failsWith_of_legal (n := 0) legal nofun
  rw [show attemptReplies (.sendFails a) ++ rs = some a :: rs from rfl,
    drain_attempts_call busy phase (callOf_attempts_send starts) (answerLegal_of_failsWith fails 0),
    heard_send_cmdMeasure, measureAnswer_send_fails (by exact starts) fails]
  rfl

/-- The state in which the last answer `last` of an attempt is heard, after its send and its polls. -/
def awaited (kind : Kind) (polls : List Byte) (last : Answer) (rs : List Reply) (s : State) : State :=
  { s with
    replies := rs
    lastres := answerCode last
    trace := s.trace ++ attemptEvents (measureCode kind s.hold) s.seq.ct.toNat (.received polls last)
    seq := { s.seq with
      mst := if s.hold then .holdWait else .pollWait
      frame := heardFrame (.recv (cmdMeasure kind s.hold) 3) last s.seq.frame } }

/-- An attempt that is sent comes to its last answer (43_measurement R148, R149). -/
theorem drain_attempt_sent {polls : List Byte} {last : Answer} (standing : AtAttempt kind rest s)
    (legal : attemptLegal s.hold (.received polls last) = true) :
    drain (attemptReplies (.received polls last) ++ rs) s = drain rs (afterLine (.attempts kind) rest
      (measureAnswer kind last (awaited kind polls last rs s))) := by
  obtain ⟨busy, phase, starts⟩ := standing
  obtain ⟨codes, path, answer, -⟩ := attemptLegal_received legal
  let more : List Reply := (polls.map fun e => some (.notReady e)) ++ some last :: rs
  let sent : State := { s with
    replies := more, lastres := 0, trace := s.trace ++ [.send (measureCode kind s.hold) (.ok [])]
    seq := { s.seq with mst := if s.hold then .holdWait else .pollWait } }
  have replies : attemptReplies (.received polls last) ++ rs = some (.ok []) :: more := by
    simp only [attemptReplies, more, List.cons_append, List.append_assoc, List.nil_append]
  have send : drain (some (.ok []) :: more) s = drain sent.replies sent := by
    rw [drain_attempts_call busy phase (callOf_attempts_send starts) rfl, heard_send_cmdMeasure,
      measureAnswer_send_ok (by exact starts), afterLine, ← phase]
    rfl
  have pollPath : polls ≠ [] → sent.seq.mst = .pollWait := fun polled =>
    if_neg fun held => polled (path held)
  have waits : sent.seq.mst = .holdWait ∨ sent.seq.mst = .pollWait := by
    cases hold : s.hold <;> simp [sent, hold]
  obtain ⟨code, polled⟩ := drain_polls (s := sent) (rs := some last :: rs) busy phase pollPath codes rfl
  rw [replies, send, polled, drain_attempts_call (by exact busy) (by exact phase)
    (callOf_attempts_recv (by exact waits)) answer, heard_recv_cmdMeasure]
  simp only [awaited, sent, pollEvents, attemptEvents, List.append_assoc, List.cons_append, List.nil_append]

theorem awaited_waits (kind : Kind) (polls : List Byte) (last : Answer) (rs : List Reply) (s : State) :
    (awaited kind polls last rs s).seq.mst = .holdWait ∨ (awaited kind polls last rs s).seq.mst = .pollWait := by
  cases hold : s.hold <;> simp [awaited, hold]

/-- One attempt is a list of attempts. -/
theorem attempted_singleton (kind : Kind) (a : Attempt) (att : Nat) (mst : MeasState) (rs : List Reply) (s : State) :
    attempted kind [a] att mst rs s = { s with
      replies := rs
      lastres := attemptCode a
      trace := s.trace ++ attemptEvents (measureCode kind s.hold) s.seq.ct.toNat a
      seq := { s.seq with
        att := att, mst := mst, frame := lastFrame s.seq.frame [a], word := lastWord s.seq.word [a] } } := by
  simp only [attempted, List.flatMap_cons, List.flatMap_nil, List.append_nil]
  rfl

/-- A failing last answer leaves the frame buffer and the word (20_memory R43). -/
theorem lastFrame_of_failsWith {last : Answer} {e : Byte} (fails : FailsWith last e) (polls : List Byte)
    (frame : List Byte) (word : Word16) :
    lastFrame frame [.received polls last] = frame ∧ lastWord word [.received polls last] = word := by
  obtain ⟨rfl | rfl, -⟩ := fails <;> exact ⟨rfl, rfl⟩

/-- An attempt without a frame at its end has failed (43_measurement R146 b). -/
theorem drain_attempt_noFrame {polls : List Byte} {last : Answer} (standing : AtAttempt kind rest s)
    (legal : attemptLegal s.hold (.received polls last) = true) (notOk : ∀ bytes, last ≠ .ok bytes) :
    ∃ mst, drain (attemptReplies (.received polls last) ++ rs) s = drain rs (afterLine (.attempts kind) rest
      (attemptFailed (attempted kind [.received polls last] s.seq.att mst rs s))) := by
  obtain ⟨-, -, answer, ending⟩ := attemptLegal_received legal
  have fails := failsWith_of_legal answer notOk
  have ends : (awaited kind polls last rs s).seq.mst = .holdWait ∨
      (awaited kind polls last rs s).seq.mst = .pollWait ∧ last = .hardError (answerCode last) := by
    refine (awaited_waits kind polls last rs s).imp_right fun waits => ⟨waits, ?_⟩
    obtain ⟨isNotReady | isHard, -⟩ := fails
    · simp [awaited, ending _ isNotReady] at waits
    · exact isHard
  obtain ⟨sameFrame, sameWord⟩ := lastFrame_of_failsWith fails polls s.seq.frame s.seq.word
  refine ⟨(awaited kind polls last rs s).seq.mst, ?_⟩
  rw [drain_attempt_sent standing legal, measureAnswer_noFrame fails ends, awaited, heardFrame_of_failsWith _ fails,
    attempted_singleton, sameFrame, sameWord]
  rfl

/-- A failing attempt leaves the block with its calls made, before the next one starts (43_measurement R150). -/
theorem drain_attempt_bad {a : Attempt} (standing : AtAttempt kind rest s) (legal : attemptLegal s.hold a = true)
    (bad : attemptIsBad kind a = true) :
    ∃ mst, drain (attemptReplies a ++ rs) s = drain rs (afterLine (.attempts kind) rest
      (attemptFailed (attempted kind [a] s.seq.att mst rs s))) := by
  cases a with
  | sendFails a => exact ⟨_, drain_attempt_unsent standing legal⟩
  | received polls last =>
    cases last with
    | ok bytes =>
      have invalid : validMeas kind bytes = false := by simpa [attemptIsBad] using bad
      refine ⟨.frameReceived, ?_⟩
      rw [drain_attempt_sent standing legal, measureAnswer_frame (awaited_waits ..), frameReceived_invalid invalid,
        attempted_singleton]
      rfl
    | notReady e => exact drain_attempt_noFrame standing legal nofun
    | hardError e => exact drain_attempt_noFrame standing legal nofun

/-- A good attempt ends the measurement's attempts (43_measurement R151). -/
theorem drain_attempt_good {polls : List Byte} {bytes : List Byte} (standing : AtAttempt kind rest s)
    (legal : attemptLegal s.hold (.received polls (.ok bytes)) = true) (valid : validMeas kind bytes = true) :
    drain (attemptReplies (.received polls (.ok bytes)) ++ rs) s = drain rs (runLines rest
      (attempted kind [.received polls (.ok bytes)] s.seq.att .idle rs s)) := by
  rw [drain_attempt_sent standing legal, measureAnswer_frame (awaited_waits ..), frameReceived_valid valid, afterLine,
    attempted_singleton]
  rfl

/-! ### The attempts of a measurement -/

/-- Failing attempts while another is left: the block stands at the start of the next (43_measurement R150). -/
theorem drain_attempts_bad {bad : List Attempt} (standing : AtAttempt kind rest s) (allBad : AllBad kind s.hold bad)
    (left : s.seq.att + bad.length ≤ 3) (replies : s.replies = bad.flatMap attemptReplies ++ rs) :
    ∃ mst, AtAttempt kind rest (attempted kind bad (s.seq.att + bad.length) mst rs s) ∧
      drain s.replies s = drain rs (attempted kind bad (s.seq.att + bad.length) mst rs s) := by
  induction bad generalizing s with
  | nil =>
    have allLeft : s.replies = rs := replies
    have same : attempted kind [] s.seq.att s.seq.mst rs s = s := by
      rw [← allLeft]
      simp only [attempted, List.flatMap_nil, List.append_nil]
      rfl
    refine ⟨s.seq.mst, ?_⟩
    rw [List.length_nil, Nat.add_zero, same, allLeft]
    exact ⟨standing, rfl⟩
  | cons a bad ih =>
    obtain ⟨legal, isBad⟩ := allBad a List.mem_cons_self
    rw [List.length_cons] at left
    obtain ⟨mst, failed⟩ := drain_attempt_bad (rs := bad.flatMap attemptReplies ++ rs) standing legal isBad
    let next := attempted kind [a] (s.seq.att + 1) .retry (bad.flatMap attemptReplies ++ rs) s
    have another : drain s.replies s = drain next.replies next := by
      rw [replies, List.flatMap_cons, List.append_assoc, failed,
        afterLine_attemptFailed_another (by change s.seq.att < 3; omega), ← standing.phase]
      rfl
    have atNext : AtAttempt kind rest next := ⟨standing.busy, standing.phase, .inr rfl⟩
    obtain ⟨mst', atLast, later⟩ := ih (s := next) atNext
      (fun b mem => allBad b (List.mem_cons_of_mem a mem)) (by change s.seq.att + 1 + bad.length ≤ 3; omega) rfl
    have joined : attempted kind bad (next.seq.att + bad.length) mst' rs next =
        attempted kind (a :: bad) (s.seq.att + (a :: bad).length) mst' rs s := by
      change attempted kind bad (s.seq.att + 1 + bad.length) mst' rs next = _
      rw [attempted_attempted, List.length_cons, Nat.add_assoc, Nat.add_comm 1, List.singleton_append]
    rw [joined] at atLast later
    exact ⟨mst', atLast, another.trans later⟩

end attempt

/-- The block as it comes to the attempts of a measurement (43_measurement R146). -/
def firstAttempt (kind : Kind) (rest : List Micro) (rs : List Reply) (s : State) : State :=
  { atLine (.attempts kind) rest rs s with seq := { (atLine (.attempts kind) rest rs s).seq with att := 1 } }

section attempts
variable {kind : Kind} {rest : List Micro} {rs : List Reply} {s : State} {tried : List Attempt}

theorem runLines_attempts (kind : Kind) (rest : List Micro) (s : State) :
    runLines (.attempts kind :: rest) s = firstAttempt kind rest s.replies s :=
  (runLines_wait (m := .attempts kind) (s := s) rfl).trans rfl

theorem atAttempt_firstAttempt (busy : s.busy = true) (idle : s.seq.mst = .idle) :
    AtAttempt kind rest (firstAttempt kind rest rs s) := ⟨busy, rfl, .inl idle⟩

/-- Attempts of which the last is good: the measurement is done (43_measurement R151). -/
theorem drain_attempts_good {bytes : List Byte} (busy : s.busy = true) (idle : s.seq.mst = .idle)
    (ends : EndsWith kind s.hold tried bytes) (replies : s.replies = tried.flatMap attemptReplies ++ rs) :
    drain s.replies (runLines (.attempts kind :: rest) s) = drain rs (runLines rest
      (attempted kind tried tried.length .idle rs (firstAttempt kind rest rs s))) := by
  obtain ⟨bad, polls, rfl, few, allBad, legal, valid⟩ := ends
  rw [List.flatMap_append, List.flatMap_singleton, List.append_assoc] at replies
  obtain ⟨mst, atLast, failed⟩ := drain_attempts_bad (bad := bad) (s := firstAttempt kind rest s.replies s)
    (atAttempt_firstAttempt busy idle) allBad (by change 1 + bad.length ≤ 3; omega) replies
  have good := drain_attempt_good (rs := rs) atLast legal valid
  rw [runLines_attempts]
  refine failed.trans (good.trans ?_)
  rw [attempted_attempted, List.length_append, Nat.add_comm bad.length]
  rfl

/-- Three failing attempts: the measurement has failed (43_measurement R150). -/
theorem drain_attempts_exhausted (busy : s.busy = true) (idle : s.seq.mst = .idle)
    (allBad : AllBad kind s.hold tried) (three : tried.length = 3)
    (replies : s.replies = tried.flatMap attemptReplies ++ rs) :
    drain s.replies (runLines (.attempts kind :: rest) s) = raiseError .measurement
      (attempted kind tried tried.length .idle rs (firstAttempt kind rest rs s)) := by
  obtain ⟨a, b, c, rfl⟩ := List.length_eq_three.mp three
  have split : [a, b, c] = [a, b] ++ [c] := rfl
  obtain ⟨legal, isBad⟩ := allBad c (by simp)
  rw [split, List.flatMap_append, List.flatMap_singleton, List.append_assoc] at replies
  obtain ⟨mst, atLast, failed⟩ := drain_attempts_bad (bad := [a, b]) (s := firstAttempt kind rest s.replies s)
    (atAttempt_firstAttempt busy idle) (fun x mem => allBad x (by rw [split]; exact List.mem_append_left _ mem))
    (Nat.le_refl 3) replies
  obtain ⟨mst', last⟩ := drain_attempt_bad (rs := rs) atLast legal isBad
  rw [runLines_attempts]
  refine failed.trans (last.trans ?_)
  rw [afterLine_attemptFailed_last (Nat.le_refl 3), attempted_attempted]
  exact drain_idle rfl rs

end attempts

/-! ### The entry of a measurement -/

/-- The block at the end of the entry of a measurement that reads the byte `u`; `phase` is where it last stood
(43_measurement R147, R151). -/
def measureEntered (kind : Kind) (u : Byte) (phase : List Micro) (rs : List Reply) (s : State) : State :=
  { reloaded s u with
    replies := rs
    seq := { (reloaded s u).seq with
      kind := kind, att := 0, mst := .idle, ct := boundFor s u kind, phase := phase } }

section entry
variable {kind : Kind} {rest : List Micro} {rs : List Reply} {s : State} {u : Byte}

theorem drain_measureEntry (busy : s.busy = true) (cached : s.uvalid = true → u = s.ureg)
    (answers : s.replies = reloadReplies s u ++ rs) :
    ∃ phase, drain s.replies (runLines (doMeasure kind ++ rest) s) =
      drain rs (runLines (.attempts kind :: rest) (measureEntered kind u phase rs s)) := by
  let entered : State := { s with seq := { s.seq with kind := kind, att := 0, mst := .idle } }
  obtain ⟨phase, reloads⟩ := drain_reload (s := entered) busy cached answers
    (.latchConvTime kind :: .attempts kind :: rest)
  refine ⟨phase, ?_⟩
  have enters : runLines (doMeasure kind ++ rest) s =
      runLines (.reload :: .latchConvTime kind :: .attempts kind :: rest) entered := rfl
  rw [enters]
  exact reloads

/-- The state after a whole measurement from `s`, with the lines `rest` to follow. -/
def measured (kind : Kind) (u : Byte) (tried : List Attempt) (phase rest : List Micro) (rs : List Reply)
    (s : State) : State :=
  attempted kind tried tried.length .idle rs
    (firstAttempt kind rest rs (measureEntered kind u phase rs s))

variable {tried : List Attempt}

/-- A measurement that is done (43_measurement R151). -/
theorem drain_measure_good {bytes : List Byte} (busy : s.busy = true) (cached : s.uvalid = true → u = s.ureg)
    (ends : EndsWith kind s.hold tried bytes) (answers : s.replies = measureReplies s u tried ++ rs) :
    ∃ phase, drain s.replies (runLines (doMeasure kind ++ rest) s) =
      drain rs (runLines rest (measured kind u tried phase rest rs s)) := by
  rw [measureReplies, List.append_assoc] at answers
  obtain ⟨phase, enters⟩ := drain_measureEntry (kind := kind) (rest := rest) busy cached answers
  refine ⟨phase, enters.trans ?_⟩
  exact drain_attempts_good (s := measureEntered kind u phase (tried.flatMap attemptReplies ++ rs) s) busy rfl
    ends rfl

/-- A measurement whose three attempts have failed (43_measurement R150). -/
theorem drain_measure_exhausted (busy : s.busy = true) (cached : s.uvalid = true → u = s.ureg)
    (allBad : AllBad kind s.hold tried) (three : tried.length = 3)
    (answers : s.replies = measureReplies s u tried ++ rs) :
    ∃ phase, drain s.replies (runLines (doMeasure kind ++ rest) s) =
      raiseError .measurement (measured kind u tried phase rest rs s) := by
  rw [measureReplies, List.append_assoc] at answers
  obtain ⟨phase, enters⟩ := drain_measureEntry (kind := kind) (rest := rest) busy cached answers
  refine ⟨phase, enters.trans ?_⟩
  exact drain_attempts_exhausted (s := measureEntered kind u phase (tried.flatMap attemptReplies ++ rs) s) busy
    rfl allBad three rfl

/-- The word of a measurement that ends with the frame `bytes` (43_measurement R151). -/
theorem lastWord_of_endsWith {hold : Bool} {bytes : List Byte} (ends : EndsWith kind hold tried bytes)
    (word : Word16) : lastWord word tried = measWord bytes := by
  obtain ⟨bad, polls, rfl, -⟩ := ends
  rw [lastWord_append]
  rfl

end entry

/-! ### The operations -/

section operations
variable {i : Instr} {kind : Kind} {rest : List Micro} {rs : List Reply} {s : State} {u : Byte}
  {tried : List Attempt}

/-- A measuring operation whose first measurement is done goes on with its other lines. -/
theorem exec_measure_good {bytes : List Byte} (lines : linesOf i = doMeasure kind ++ rest)
    (needs : needsBegun i = true) (idle : s.busy = false) (begun : s.begun = true)
    (cached : s.uvalid = true → u = s.ureg) (ends : EndsWith kind s.hold tried bytes)
    (answers : s.replies = measureReplies s u tried ++ rs) :
    ∃ phase, exec i s = .next (drain rs (runLines rest
      (measured kind u tried phase rest rs (accept (encode i) s)))) := by
  obtain ⟨phase, good⟩ := drain_measure_good (rest := rest) (s := accept (encode i) s) rfl cached ends answers
  refine ⟨phase, ?_⟩
  rw [exec_runs (wireOf_of_needsBegun needs) idle fun _ => begun, lines]
  exact congrArg _ good

/-- A measuring operation whose first measurement has failed. -/
theorem exec_measure_exhausted (lines : linesOf i = doMeasure kind ++ rest)
    (needs : needsBegun i = true) (sentinel : ∀ r, failedResult i r = badQ) (idle : s.busy = false)
    (begun : s.begun = true) (cached : s.uvalid = true → u = s.ureg) (allBad : AllBad kind s.hold tried)
    (three : tried.length = 3) (answers : s.replies = measureReplies s u tried ++ rs) :
    exec i s = .next (ended (encode i) .measurement { afterAttempts kind u tried s with
      replies := rs, result := badQ }) := by
  obtain ⟨phase, exhausted⟩ := drain_measure_exhausted (rest := rest) (s := accept (encode i) s) rfl cached
    allBad three answers
  have same : s.replies = (accept (encode i) s).replies := rfl
  rw [exec_runs (wireOf_of_needsBegun needs) idle fun _ => begun, lines, same, exhausted,
    raiseError_of_op (i := i) _ rfl, sentinel]
  rfl

/-- Settles O36: the measurement is done, and its result is the converted word of the good frame. -/
theorem measurementSucceeds : Obligations.MeasurementSucceeds := by
  intro s u tried bytes rest idle begun cached answers
  refine ⟨fun ends => ?_, fun ends => ?_⟩
  · obtain ⟨phase, good⟩ := exec_measure_good (i := .measT) (rest := [.resultT]) rfl rfl idle begun cached ends
      answers
    rw [good, runLines_done (m := .resultT) rfl, runLines_nil, ← lastWord_of_endsWith ends s.seq.word]
    exact congrArg _ (drain_idle rfl _)
  · obtain ⟨phase, good⟩ := exec_measure_good (i := .measRh) (rest := [.resultRh]) rfl rfl idle begun cached ends
      answers
    rw [good, runLines_done (m := .resultRh) rfl, runLines_nil, ← lastWord_of_endsWith ends s.seq.word]
    exact congrArg _ (drain_idle rfl _)

/-- Settles O38: three failing attempts end the first measurement of each operation. -/
theorem measurementExhausted : Obligations.MeasurementExhausted := by
  intro s u tried rest idle begun cached three answers
  refine ⟨fun allBad => ⟨?_, ?_⟩, fun allBad => ?_⟩
  · exact exec_measure_exhausted (i := .measT) rfl rfl (fun _ => rfl) idle begun cached allBad three answers
  · exact exec_measure_exhausted (i := .measRhc) (rest := .latchT :: (doMeasure .rh ++ [.resultRhc])) rfl rfl
      (fun _ => rfl) idle begun cached allBad three answers
  · exact exec_measure_exhausted (i := .measRh) rfl rfl (fun _ => rfl) idle begun cached allBad three answers

/-- The temperature of MEAS_RHC as it is latched before the humidity measurement (43_measurement R157). -/
def temperatureLatched (u : Byte) (tried : List Attempt) (bytes : List Byte) (phase rest : List Micro)
    (rs : List Reply) (s : State) : State :=
  let mid := measured .t u tried phase rest rs s
  { mid with seq := { mid.seq with tlatch := toWord (convT (measWord bytes &&& 0xFFFC)) } }

/-- MEAS_RHC comes to its humidity measurement. -/
theorem exec_measRhc_latched {bytes : List Byte} (idle : s.busy = false) (begun : s.begun = true)
    (cached : s.uvalid = true → u = s.ureg) (ends : EndsWith .t s.hold tried bytes)
    (answers : s.replies = measureReplies s u tried ++ rs) :
    ∃ phase rest, exec .measRhc s = .next (drain rs (runLines (doMeasure .rh ++ [.resultRhc])
      (temperatureLatched u tried bytes phase rest rs (accept (encode .measRhc) s)))) := by
  let rest : List Micro := .latchT :: (doMeasure .rh ++ [.resultRhc])
  obtain ⟨phase, good⟩ := exec_measure_good (i := .measRhc) (rest := rest) rfl rfl idle begun cached ends answers
  refine ⟨phase, rest, ?_⟩
  rw [good, runLines_done (m := .latchT) rfl, temperatureLatched, ← lastWord_of_endsWith ends s.seq.word]
  rfl

end operations

/-- Settles O37: both measurements are done; the shadow filled by the first serves the second. -/
theorem measRhcSucceeds : Obligations.MeasRhcSucceeds := by
  intro s u triedT triedRh bytesT bytesRh rest idle begun cached endsT endsRh answers mid latched
  rw [List.append_assoc] at answers
  obtain ⟨phase, lines, temperature⟩ := exec_measRhc_latched idle begun cached endsT answers
  obtain ⟨phase', humidity⟩ := drain_measure_good (kind := .rh) (rest := [.resultRhc]) (u := u)
    (s := temperatureLatched u triedT bytesT phase lines (triedRh.flatMap attemptReplies ++ rest)
      (accept (encode .measRhc) s)) rfl (fun _ => rfl) endsRh rfl
  rw [temperature]
  refine congrArg _ (humidity.trans ?_)
  rw [runLines_done (m := .resultRhc) rfl, runLines_nil, ← lastWord_of_endsWith endsRh mid.seq.word,
    ← toInt_toWord_convT (measWord bytesT &&& 0xFFFC)]
  exact drain_idle rfl _

/-- Settles O39: the temperature is measured, and the three attempts of the humidity have failed. -/
theorem measRhcHumidityExhausted : Obligations.MeasRhcHumidityExhausted := by
  intro s u triedT triedRh bytesT rest idle begun cached endsT three allBad answers mid latched
  rw [List.append_assoc] at answers
  obtain ⟨phase, lines, temperature⟩ := exec_measRhc_latched idle begun cached endsT answers
  obtain ⟨phase', humidity⟩ := drain_measure_exhausted (kind := .rh) (rest := [.resultRhc]) (u := u)
    (s := temperatureLatched u triedT bytesT phase lines (triedRh.flatMap attemptReplies ++ rest)
      (accept (encode .measRhc) s)) rfl (fun _ => rfl) allBad three rfl
  rw [temperature]
  refine congrArg _ (humidity.trans ?_)
  rw [raiseError_of_op (i := .measRhc) _ rfl]
  rfl

/-- A measurement whose entry cannot read the register (43_measurement R147, R158). -/
theorem exec_measure_unread {i : Instr} {kind : Kind} {rest : List Micro} {rs : List Reply} {s : State}
    {a : Answer} {e : Byte} (lines : linesOf i = doMeasure kind ++ rest) (needs : needsBegun i = true)
    (sentinel : ∀ r, failedResult i r = badQ) (idle : s.busy = false) (begun : s.begun = true)
    (invalid : s.uvalid = false) (fails : FailsWith a e) (answers : s.replies = some a :: rs) :
    exec i s = .next (ended (encode i) .registerRead { s with
      replies := rs, lastres := e, result := badQ, trace := s.trace ++ [.recv 0x00E7 1 a]
      seq := { s.seq with kind := kind, att := 0 } }) := by
  let accepted := accept (encode i) s
  let entered : State := { accepted with seq := { accepted.seq with kind := kind, att := 0, mst := .idle } }
  have enters : runLines (doMeasure kind ++ rest) accepted =
      runLines (.reload :: .latchConvTime kind :: .attempts kind :: rest) entered := rfl
  rw [exec_runs (wireOf_of_needsBegun needs) idle fun _ => begun, lines, enters, answers,
    drain_reload_fails (s := entered) rfl invalid fails, raiseError_of_op (i := i) _ rfl, sentinel]
  rfl

/-- Settles O40: each of the three operations begins with the entry of a measurement. -/
theorem measurementEntryFails : Obligations.MeasurementEntryFails := by
  intro s a e rest idle begun invalid fails answers left
  exact ⟨exec_measure_unread (i := .measT) rfl rfl (fun _ => rfl) idle begun invalid fails answers,
    exec_measure_unread (i := .measRh) rfl rfl (fun _ => rfl) idle begun invalid fails answers,
    exec_measure_unread (i := .measRhc) (rest := .latchT :: (doMeasure .rh ++ [.resultRhc])) rfl rfl
      (fun _ => rfl) idle begun invalid fails answers⟩

end Sys2Proof.Machine
end
